-- ==== Sys2Proof/Word.lean ====
section
/-! DEFINITION. The two word types of the core: 8-bit bytes and 16-bit words (spec/00_scope.md R6, R8). -/

namespace Sys2Proof

/-- An 8-bit value: A, F, IR, IE and every memory byte (spec/00_scope.md R6). -/
abbrev Byte := BitVec 8

/-- A 16-bit value: PC, SP, BC, DE, HL and every address (spec/00_scope.md R6). -/
abbrev Word := BitVec 16

end Sys2Proof
end

