-- ==== Sys2Proof/Syntax.lean ====
section
/-! DEFINITION. The instructions: the operand fields of spec/30_encoding.md R182 to R190, the inductive
`Instr` with one constructor per row of spec/opcode_table.json, and `Form`, the table's column "form" with
its fields, which several rows share. A constructor's name is its row's spelling: `Mhl` is (HL), `Mbc` is
(BC), `Ma16` is (a16), `MhlInc` is (HL+), `MhlDec` is (HL-). -/

namespace Sys2Proof

/-- The 8-bit operand field R8 (spec/30_encoding.md R182); `mHL` is the memory byte at HL. -/
inductive R8 where
  | b | c | d | e | h | l | mHL | a
  deriving DecidableEq, Repr, Inhabited

/-- The 16-bit operand field R16 (spec/30_encoding.md R183). -/
inductive R16 where
  | bc | de | hl | sp
  deriving DecidableEq, Repr, Inhabited

/-- The stack operand field R16STK (spec/30_encoding.md R184). -/
inductive R16Stk where
  | bc | de | hl | af
  deriving DecidableEq, Repr, Inhabited

/-- The memory pointer field R16MEM (spec/30_encoding.md R185). -/
inductive R16Mem where
  | bc | de | hlInc | hlDec
  deriving DecidableEq, Repr, Inhabited

/-- The condition field cc (spec/30_encoding.md R186). -/
inductive Cond where
  | nz | z | nc | c
  deriving DecidableEq, Repr, Inhabited

/-- The ALU operation field (spec/30_encoding.md R187). -/
inductive AluOp where
  | add | adc | sub | sbc | and | xor | or | cp
  deriving DecidableEq, Repr, Inhabited

/-- The CB rotate, shift and swap field (spec/30_encoding.md R188). -/
inductive RotOp where
  | rlc | rrc | rl | rr | sla | sra | swap | srl
  deriving DecidableEq, Repr, Inhabited

/-- The instructions, one constructor per row of spec/opcode_table.json: first the rows
with an operand, then those without, each in the table's order (Lean's compiled code allows no operand on a
constructor that stands after the 244th). The operand of
a row that has one is the immediate of its second byte, its second and third bytes, or its bit index. The
row PREFIX CB and the eleven INVALID rows are rows too, and are no instructions (see `Instr.wellFormed`). -/
inductive Instr where
  | ldBcD16 (d16 : Word)
  | ldBD8 (d8 : Byte)
  | ldMa16Sp (a16 : Word)
  | ldCD8 (d8 : Byte)
  | stop (ignored : Byte)
  | ldDeD16 (d16 : Word)
  | ldDD8 (d8 : Byte)
  | jrE8 (e8 : Byte)
  | ldED8 (d8 : Byte)
  | jrNzE8 (e8 : Byte)
  | ldHlD16 (d16 : Word)
  | ldHD8 (d8 : Byte)
  | jrZE8 (e8 : Byte)
  | ldLD8 (d8 : Byte)
  | jrNcE8 (e8 : Byte)
  | ldSpD16 (d16 : Word)
  | ldMhlD8 (d8 : Byte)
  | jrCE8 (e8 : Byte)
  | ldAD8 (d8 : Byte)
  | jpNzA16 (a16 : Word)
  | jpA16 (a16 : Word)
  | callNzA16 (a16 : Word)
  | addAD8 (d8 : Byte)
  | jpZA16 (a16 : Word)
  | callZA16 (a16 : Word)
  | callA16 (a16 : Word)
  | adcAD8 (d8 : Byte)
  | jpNcA16 (a16 : Word)
  | callNcA16 (a16 : Word)
  | subD8 (d8 : Byte)
  | jpCA16 (a16 : Word)
  | callCA16 (a16 : Word)
  | sbcAD8 (d8 : Byte)
  | ldhMa8A (a8 : Byte)
  | andD8 (d8 : Byte)
  | addSpE8 (e8 : Byte)
  | ldMa16A (a16 : Word)
  | xorD8 (d8 : Byte)
  | ldhAMa8 (a8 : Byte)
  | orD8 (d8 : Byte)
  | ldHlSpE8 (e8 : Byte)
  | ldAMa16 (a16 : Word)
  | cpD8 (d8 : Byte)
  | bitB (b : BitVec 3)
  | bitC (b : BitVec 3)
  | bitD (b : BitVec 3)
  | bitE (b : BitVec 3)
  | bitH (b : BitVec 3)
  | bitL (b : BitVec 3)
  | bitMhl (b : BitVec 3)
  | bitA (b : BitVec 3)
  | resB (b : BitVec 3)
  | resC (b : BitVec 3)
  | resD (b : BitVec 3)
  | resE (b : BitVec 3)
  | resH (b : BitVec 3)
  | resL (b : BitVec 3)
  | resMhl (b : BitVec 3)
  | resA (b : BitVec 3)
  | setB (b : BitVec 3)
  | setC (b : BitVec 3)
  | setD (b : BitVec 3)
  | setE (b : BitVec 3)
  | setH (b : BitVec 3)
  | setL (b : BitVec 3)
  | setMhl (b : BitVec 3)
  | setA (b : BitVec 3)
  | nop
  | ldMbcA
  | incBc
  | incB
  | decB
  | rlca
  | addHlBc
  | ldAMbc
  | decBc
  | incC
  | decC
  | rrca
  | ldMdeA
  | incDe
  | incD
  | decD
  | rla
  | addHlDe
  | ldAMde
  | decDe
  | incE
  | decE
  | rra
  | ldMhlIncA
  | incHl
  | incH
  | decH
  | daa
  | addHlHl
  | ldAMhlInc
  | decHl
  | incL
  | decL
  | cpl
  | ldMhlDecA
  | incSp
  | incMhl
  | decMhl
  | scf
  | addHlSp
  | ldAMhlDec
  | decSp
  | incA
  | decA
  | ccf
  | ldBB
  | ldBC
  | ldBD
  | ldBE
  | ldBH
  | ldBL
  | ldBMhl
  | ldBA
  | ldCB
  | ldCC
  | ldCD
  | ldCE
  | ldCH
  | ldCL
  | ldCMhl
  | ldCA
  | ldDB
  | ldDC
  | ldDD
  | ldDE
  | ldDH
  | ldDL
  | ldDMhl
  | ldDA
  | ldEB
  | ldEC
  | ldED
  | ldEE
  | ldEH
  | ldEL
  | ldEMhl
  | ldEA
  | ldHB
  | ldHC
  | ldHD
  | ldHE
  | ldHH
  | ldHL
  | ldHMhl
  | ldHA
  | ldLB
  | ldLC
  | ldLD
  | ldLE
  | ldLH
  | ldLL
  | ldLMhl
  | ldLA
  | ldMhlB
  | ldMhlC
  | ldMhlD
  | ldMhlE
  | ldMhlH
  | ldMhlL
  | halt
  | ldMhlA
  | ldAB
  | ldAC
  | ldAD
  | ldAE
  | ldAH
  | ldAL
  | ldAMhl
  | ldAA
  | addAB
  | addAC
  | addAD
  | addAE
  | addAH
  | addAL
  | addAMhl
  | addAA
  | adcAB
  | adcAC
  | adcAD
  | adcAE
  | adcAH
  | adcAL
  | adcAMhl
  | adcAA
  | subB
  | subC
  | subD
  | subE
  | subH
  | subL
  | subMhl
  | subA
  | sbcAB
  | sbcAC
  | sbcAD
  | sbcAE
  | sbcAH
  | sbcAL
  | sbcAMhl
  | sbcAA
  | andB
  | andC
  | andD
  | andE
  | andH
  | andL
  | andMhl
  | andA
  | xorB
  | xorC
  | xorD
  | xorE
  | xorH
  | xorL
  | xorMhl
  | xorA
  | orB
  | orC
  | orD
  | orE
  | orH
  | orL
  | orMhl
  | orA
  | cpB
  | cpC
  | cpD
  | cpE
  | cpH
  | cpL
  | cpMhl
  | cpA
  | retNz
  | popBc
  | pushBc
  | rst00h
  | retZ
  | ret
  | prefixCb
  | rst08h
  | retNc
  | popDe
  | invalidD3
  | pushDe
  | rst10h
  | retC
  | reti
  | invalidDB
  | invalidDD
  | rst18h
  | popHl
  | ldMcA
  | invalidE3
  | invalidE4
  | pushHl
  | rst20h
  | jpHl
  | invalidEB
  | invalidEC
  | invalidED
  | rst28h
  | popAf
  | ldAMc
  | di
  | invalidF4
  | pushAf
  | rst30h
  | ldSpHl
  | ei
  | invalidFC
  | invalidFD
  | rst38h
  | rlcB
  | rlcC
  | rlcD
  | rlcE
  | rlcH
  | rlcL
  | rlcMhl
  | rlcA
  | rrcB
  | rrcC
  | rrcD
  | rrcE
  | rrcH
  | rrcL
  | rrcMhl
  | rrcA
  | rlB
  | rlC
  | rlD
  | rlE
  | rlH
  | rlL
  | rlMhl
  | rlA
  | rrB
  | rrC
  | rrD
  | rrE
  | rrH
  | rrL
  | rrMhl
  | rrA
  | slaB
  | slaC
  | slaD
  | slaE
  | slaH
  | slaL
  | slaMhl
  | slaA
  | sraB
  | sraC
  | sraD
  | sraE
  | sraH
  | sraL
  | sraMhl
  | sraA
  | swapB
  | swapC
  | swapD
  | swapE
  | swapH
  | swapL
  | swapMhl
  | swapA
  | srlB
  | srlC
  | srlD
  | srlE
  | srlH
  | srlL
  | srlMhl
  | srlA
  deriving DecidableEq, Repr, Inhabited

/-- The forms: the column "form" of spec/opcode_table.json with the fields that a form's rows differ in. The
forms of a register operand and of its (HL) operand are one form with an operand of R8 (spec/40_engine.md
R246, R247). `stop` carries the ignored byte (spec/47_system.md R481), `invalid` its opcode. -/
inductive Form where
  | nop
  | stop (ignored : Byte)
  | halt
  | di
  | ei
  | prefixCB
  | invalid (opcode : Byte)
  | ld (dst src : R8)
  | ldImm (dst : R8) (d8 : Byte)
  | ldAInd (p : R16Mem)
  | ldIndA (p : R16Mem)
  | ldAMa16 (a16 : Word)
  | ldMa16A (a16 : Word)
  | ldhAMa8 (a8 : Byte)
  | ldhMa8A (a8 : Byte)
  | ldAMc
  | ldMcA
  | ld16 (rr : R16) (d16 : Word)
  | ldMa16Sp (a16 : Word)
  | ldSpHl
  | ldHlSp (e8 : Byte)
  | push (rr : R16Stk)
  | pop (rr : R16Stk)
  | alu (op : AluOp) (src : R8)
  | aluImm (op : AluOp) (d8 : Byte)
  | inc (r : R8)
  | dec (r : R8)
  | inc16 (rr : R16)
  | dec16 (rr : R16)
  | addHl (rr : R16)
  | addSp (e8 : Byte)
  | rlca
  | rrca
  | rla
  | rra
  | daa
  | cpl
  | scf
  | ccf
  | jp (a16 : Word)
  | jpCond (cc : Cond) (a16 : Word)
  | jpHL
  | jr (e8 : Byte)
  | jrCond (cc : Cond) (e8 : Byte)
  | call (a16 : Word)
  | callCond (cc : Cond) (a16 : Word)
  | ret
  | retCond (cc : Cond)
  | reti
  | rst (t : BitVec 3)
  | rot (op : RotOp) (r : R8)
  | bit (b : BitVec 3) (r : R8)
  | res (b : BitVec 3) (r : R8)
  | set (b : BitVec 3) (r : R8)
  deriving DecidableEq, Repr, Inhabited

end Sys2Proof
end

