-- ==== Sys2Proof/WellFormed.lean ====
section
/-! DEFINITION. Which rows of the table are instructions. Every operand has the width its field has in the
encoding (spec/30_encoding.md R181 to R194), so the types leave only two things to check: the row is not the
prefix, and it is not one of the invalid opcodes. -/

namespace Sys2Proof

/-- The row PREFIX CB: "The byte 0xCB is a prefix, not an instruction" (spec/30_encoding.md R195). -/
def Instr.isPrefix : Instr → Bool
  | .prefixCb => true
  | _ => false

/-- The eleven INVALID rows, which "have no instruction" (spec/30_encoding.md R196). -/
def Instr.isInvalid : Instr → Bool
  | .invalidD3 | .invalidDB | .invalidDD | .invalidE3 | .invalidE4 | .invalidEB
  | .invalidEC | .invalidED | .invalidF4 | .invalidFC | .invalidFD => true
  | _ => false

/-- A row that is an instruction: one of the 244 unprefixed and the 256 CB-prefixed ones
(spec/30_encoding.md R195 to R197). -/
def Instr.wellFormed (i : Instr) : Bool :=
  !i.isPrefix && !i.isInvalid

end Sys2Proof
end

