-- ==== Sys2Proof/Decode.lean ====
section
/-! DEFINITION. From bytes to instructions and back. The decoder is the two opcode maps of
spec/30_encoding.md R202 (row = high nibble, column = low nibble) and R204. The encoder does not look at those
maps: it puts the fields of a row's form together by the bit patterns of R203 and R204 and the operand codes of
R182 to R190. That the two agree is a statement (Certificates). -/

namespace Sys2Proof

/-! ### Bytes of a word -/

/-- `hi : lo`, the 16-bit value with `hi` in the high bits (spec/00_scope.md R8). -/
def Word.ofBytes (hi lo : Byte) : Word := hi ++ lo

/-- Bits 7 to 0 of a word. -/
def Word.lo (w : Word) : Byte := w.extractLsb' 0 8

/-- Bits 15 to 8 of a word. -/
def Word.hi (w : Word) : Byte := w.extractLsb' 8 8

/-! ### The form of a row -/

/-- The form of a row and its fields: the columns "form" and "source_fields" of spec/opcode_table.json. -/
def Instr.form : Instr → Form
  | .nop => .nop
  | .ldBcD16 d16 => .ld16 .bc d16
  | .ldMbcA => .ldIndA .bc
  | .incBc => .inc16 .bc
  | .incB => .inc .b
  | .decB => .dec .b
  | .ldBD8 d8 => .ldImm .b d8
  | .rlca => .rlca
  | .ldMa16Sp a16 => .ldMa16Sp a16
  | .addHlBc => .addHl .bc
  | .ldAMbc => .ldAInd .bc
  | .decBc => .dec16 .bc
  | .incC => .inc .c
  | .decC => .dec .c
  | .ldCD8 d8 => .ldImm .c d8
  | .rrca => .rrca
  | .stop ignored => .stop ignored
  | .ldDeD16 d16 => .ld16 .de d16
  | .ldMdeA => .ldIndA .de
  | .incDe => .inc16 .de
  | .incD => .inc .d
  | .decD => .dec .d
  | .ldDD8 d8 => .ldImm .d d8
  | .rla => .rla
  | .jrE8 e8 => .jr e8
  | .addHlDe => .addHl .de
  | .ldAMde => .ldAInd .de
  | .decDe => .dec16 .de
  | .incE => .inc .e
  | .decE => .dec .e
  | .ldED8 d8 => .ldImm .e d8
  | .rra => .rra
  | .jrNzE8 e8 => .jrCond .nz e8
  | .ldHlD16 d16 => .ld16 .hl d16
  | .ldMhlIncA => .ldIndA .hlInc
  | .incHl => .inc16 .hl
  | .incH => .inc .h
  | .decH => .dec .h
  | .ldHD8 d8 => .ldImm .h d8
  | .daa => .daa
  | .jrZE8 e8 => .jrCond .z e8
  | .addHlHl => .addHl .hl
  | .ldAMhlInc => .ldAInd .hlInc
  | .decHl => .dec16 .hl
  | .incL => .inc .l
  | .decL => .dec .l
  | .ldLD8 d8 => .ldImm .l d8
  | .cpl => .cpl
  | .jrNcE8 e8 => .jrCond .nc e8
  | .ldSpD16 d16 => .ld16 .sp d16
  | .ldMhlDecA => .ldIndA .hlDec
  | .incSp => .inc16 .sp
  | .incMhl => .inc .mHL
  | .decMhl => .dec .mHL
  | .ldMhlD8 d8 => .ldImm .mHL d8
  | .scf => .scf
  | .jrCE8 e8 => .jrCond .c e8
  | .addHlSp => .addHl .sp
  | .ldAMhlDec => .ldAInd .hlDec
  | .decSp => .dec16 .sp
  | .incA => .inc .a
  | .decA => .dec .a
  | .ldAD8 d8 => .ldImm .a d8
  | .ccf => .ccf
  | .ldBB => .ld .b .b
  | .ldBC => .ld .b .c
  | .ldBD => .ld .b .d
  | .ldBE => .ld .b .e
  | .ldBH => .ld .b .h
  | .ldBL => .ld .b .l
  | .ldBMhl => .ld .b .mHL
  | .ldBA => .ld .b .a
  | .ldCB => .ld .c .b
  | .ldCC => .ld .c .c
  | .ldCD => .ld .c .d
  | .ldCE => .ld .c .e
  | .ldCH => .ld .c .h
  | .ldCL => .ld .c .l
  | .ldCMhl => .ld .c .mHL
  | .ldCA => .ld .c .a
  | .ldDB => .ld .d .b
  | .ldDC => .ld .d .c
  | .ldDD => .ld .d .d
  | .ldDE => .ld .d .e
  | .ldDH => .ld .d .h
  | .ldDL => .ld .d .l
  | .ldDMhl => .ld .d .mHL
  | .ldDA => .ld .d .a
  | .ldEB => .ld .e .b
  | .ldEC => .ld .e .c
  | .ldED => .ld .e .d
  | .ldEE => .ld .e .e
  | .ldEH => .ld .e .h
  | .ldEL => .ld .e .l
  | .ldEMhl => .ld .e .mHL
  | .ldEA => .ld .e .a
  | .ldHB => .ld .h .b
  | .ldHC => .ld .h .c
  | .ldHD => .ld .h .d
  | .ldHE => .ld .h .e
  | .ldHH => .ld .h .h
  | .ldHL => .ld .h .l
  | .ldHMhl => .ld .h .mHL
  | .ldHA => .ld .h .a
  | .ldLB => .ld .l .b
  | .ldLC => .ld .l .c
  | .ldLD => .ld .l .d
  | .ldLE => .ld .l .e
  | .ldLH => .ld .l .h
  | .ldLL => .ld .l .l
  | .ldLMhl => .ld .l .mHL
  | .ldLA => .ld .l .a
  | .ldMhlB => .ld .mHL .b
  | .ldMhlC => .ld .mHL .c
  | .ldMhlD => .ld .mHL .d
  | .ldMhlE => .ld .mHL .e
  | .ldMhlH => .ld .mHL .h
  | .ldMhlL => .ld .mHL .l
  | .halt => .halt
  | .ldMhlA => .ld .mHL .a
  | .ldAB => .ld .a .b
  | .ldAC => .ld .a .c
  | .ldAD => .ld .a .d
  | .ldAE => .ld .a .e
  | .ldAH => .ld .a .h
  | .ldAL => .ld .a .l
  | .ldAMhl => .ld .a .mHL
  | .ldAA => .ld .a .a
  | .addAB => .alu .add .b
  | .addAC => .alu .add .c
  | .addAD => .alu .add .d
  | .addAE => .alu .add .e
  | .addAH => .alu .add .h
  | .addAL => .alu .add .l
  | .addAMhl => .alu .add .mHL
  | .addAA => .alu .add .a
  | .adcAB => .alu .adc .b
  | .adcAC => .alu .adc .c
  | .adcAD => .alu .adc .d
  | .adcAE => .alu .adc .e
  | .adcAH => .alu .adc .h
  | .adcAL => .alu .adc .l
  | .adcAMhl => .alu .adc .mHL
  | .adcAA => .alu .adc .a
  | .subB => .alu .sub .b
  | .subC => .alu .sub .c
  | .subD => .alu .sub .d
  | .subE => .alu .sub .e
  | .subH => .alu .sub .h
  | .subL => .alu .sub .l
  | .subMhl => .alu .sub .mHL
  | .subA => .alu .sub .a
  | .sbcAB => .alu .sbc .b
  | .sbcAC => .alu .sbc .c
  | .sbcAD => .alu .sbc .d
  | .sbcAE => .alu .sbc .e
  | .sbcAH => .alu .sbc .h
  | .sbcAL => .alu .sbc .l
  | .sbcAMhl => .alu .sbc .mHL
  | .sbcAA => .alu .sbc .a
  | .andB => .alu .and .b
  | .andC => .alu .and .c
  | .andD => .alu .and .d
  | .andE => .alu .and .e
  | .andH => .alu .and .h
  | .andL => .alu .and .l
  | .andMhl => .alu .and .mHL
  | .andA => .alu .and .a
  | .xorB => .alu .xor .b
  | .xorC => .alu .xor .c
  | .xorD => .alu .xor .d
  | .xorE => .alu .xor .e
  | .xorH => .alu .xor .h
  | .xorL => .alu .xor .l
  | .xorMhl => .alu .xor .mHL
  | .xorA => .alu .xor .a
  | .orB => .alu .or .b
  | .orC => .alu .or .c
  | .orD => .alu .or .d
  | .orE => .alu .or .e
  | .orH => .alu .or .h
  | .orL => .alu .or .l
  | .orMhl => .alu .or .mHL
  | .orA => .alu .or .a
  | .cpB => .alu .cp .b
  | .cpC => .alu .cp .c
  | .cpD => .alu .cp .d
  | .cpE => .alu .cp .e
  | .cpH => .alu .cp .h
  | .cpL => .alu .cp .l
  | .cpMhl => .alu .cp .mHL
  | .cpA => .alu .cp .a
  | .retNz => .retCond .nz
  | .popBc => .pop .bc
  | .jpNzA16 a16 => .jpCond .nz a16
  | .jpA16 a16 => .jp a16
  | .callNzA16 a16 => .callCond .nz a16
  | .pushBc => .push .bc
  | .addAD8 d8 => .aluImm .add d8
  | .rst00h => .rst 0#3
  | .retZ => .retCond .z
  | .ret => .ret
  | .jpZA16 a16 => .jpCond .z a16
  | .prefixCb => .prefixCB
  | .callZA16 a16 => .callCond .z a16
  | .callA16 a16 => .call a16
  | .adcAD8 d8 => .aluImm .adc d8
  | .rst08h => .rst 1#3
  | .retNc => .retCond .nc
  | .popDe => .pop .de
  | .jpNcA16 a16 => .jpCond .nc a16
  | .invalidD3 => .invalid 0xD3#8
  | .callNcA16 a16 => .callCond .nc a16
  | .pushDe => .push .de
  | .subD8 d8 => .aluImm .sub d8
  | .rst10h => .rst 2#3
  | .retC => .retCond .c
  | .reti => .reti
  | .jpCA16 a16 => .jpCond .c a16
  | .invalidDB => .invalid 0xDB#8
  | .callCA16 a16 => .callCond .c a16
  | .invalidDD => .invalid 0xDD#8
  | .sbcAD8 d8 => .aluImm .sbc d8
  | .rst18h => .rst 3#3
  | .ldhMa8A a8 => .ldhMa8A a8
  | .popHl => .pop .hl
  | .ldMcA => .ldMcA
  | .invalidE3 => .invalid 0xE3#8
  | .invalidE4 => .invalid 0xE4#8
  | .pushHl => .push .hl
  | .andD8 d8 => .aluImm .and d8
  | .rst20h => .rst 4#3
  | .addSpE8 e8 => .addSp e8
  | .jpHl => .jpHL
  | .ldMa16A a16 => .ldMa16A a16
  | .invalidEB => .invalid 0xEB#8
  | .invalidEC => .invalid 0xEC#8
  | .invalidED => .invalid 0xED#8
  | .xorD8 d8 => .aluImm .xor d8
  | .rst28h => .rst 5#3
  | .ldhAMa8 a8 => .ldhAMa8 a8
  | .popAf => .pop .af
  | .ldAMc => .ldAMc
  | .di => .di
  | .invalidF4 => .invalid 0xF4#8
  | .pushAf => .push .af
  | .orD8 d8 => .aluImm .or d8
  | .rst30h => .rst 6#3
  | .ldHlSpE8 e8 => .ldHlSp e8
  | .ldSpHl => .ldSpHl
  | .ldAMa16 a16 => .ldAMa16 a16
  | .ei => .ei
  | .invalidFC => .invalid 0xFC#8
  | .invalidFD => .invalid 0xFD#8
  | .cpD8 d8 => .aluImm .cp d8
  | .rst38h => .rst 7#3
  | .rlcB => .rot .rlc .b
  | .rlcC => .rot .rlc .c
  | .rlcD => .rot .rlc .d
  | .rlcE => .rot .rlc .e
  | .rlcH => .rot .rlc .h
  | .rlcL => .rot .rlc .l
  | .rlcMhl => .rot .rlc .mHL
  | .rlcA => .rot .rlc .a
  | .rrcB => .rot .rrc .b
  | .rrcC => .rot .rrc .c
  | .rrcD => .rot .rrc .d
  | .rrcE => .rot .rrc .e
  | .rrcH => .rot .rrc .h
  | .rrcL => .rot .rrc .l
  | .rrcMhl => .rot .rrc .mHL
  | .rrcA => .rot .rrc .a
  | .rlB => .rot .rl .b
  | .rlC => .rot .rl .c
  | .rlD => .rot .rl .d
  | .rlE => .rot .rl .e
  | .rlH => .rot .rl .h
  | .rlL => .rot .rl .l
  | .rlMhl => .rot .rl .mHL
  | .rlA => .rot .rl .a
  | .rrB => .rot .rr .b
  | .rrC => .rot .rr .c
  | .rrD => .rot .rr .d
  | .rrE => .rot .rr .e
  | .rrH => .rot .rr .h
  | .rrL => .rot .rr .l
  | .rrMhl => .rot .rr .mHL
  | .rrA => .rot .rr .a
  | .slaB => .rot .sla .b
  | .slaC => .rot .sla .c
  | .slaD => .rot .sla .d
  | .slaE => .rot .sla .e
  | .slaH => .rot .sla .h
  | .slaL => .rot .sla .l
  | .slaMhl => .rot .sla .mHL
  | .slaA => .rot .sla .a
  | .sraB => .rot .sra .b
  | .sraC => .rot .sra .c
  | .sraD => .rot .sra .d
  | .sraE => .rot .sra .e
  | .sraH => .rot .sra .h
  | .sraL => .rot .sra .l
  | .sraMhl => .rot .sra .mHL
  | .sraA => .rot .sra .a
  | .swapB => .rot .swap .b
  | .swapC => .rot .swap .c
  | .swapD => .rot .swap .d
  | .swapE => .rot .swap .e
  | .swapH => .rot .swap .h
  | .swapL => .rot .swap .l
  | .swapMhl => .rot .swap .mHL
  | .swapA => .rot .swap .a
  | .srlB => .rot .srl .b
  | .srlC => .rot .srl .c
  | .srlD => .rot .srl .d
  | .srlE => .rot .srl .e
  | .srlH => .rot .srl .h
  | .srlL => .rot .srl .l
  | .srlMhl => .rot .srl .mHL
  | .srlA => .rot .srl .a
  | .bitB b => .bit b .b
  | .bitC b => .bit b .c
  | .bitD b => .bit b .d
  | .bitE b => .bit b .e
  | .bitH b => .bit b .h
  | .bitL b => .bit b .l
  | .bitMhl b => .bit b .mHL
  | .bitA b => .bit b .a
  | .resB b => .res b .b
  | .resC b => .res b .c
  | .resD b => .res b .d
  | .resE b => .res b .e
  | .resH b => .res b .h
  | .resL b => .res b .l
  | .resMhl b => .res b .mHL
  | .resA b => .res b .a
  | .setB b => .set b .b
  | .setC b => .set b .c
  | .setD b => .set b .d
  | .setE b => .set b .e
  | .setH b => .set b .h
  | .setL b => .set b .l
  | .setMhl b => .set b .mHL
  | .setA b => .set b .a

/-! ### Operand codes -/

/-- The code of an 8-bit operand (spec/30_encoding.md R182). -/
def R8.code : R8 → BitVec 3
  | .b => 0#3 | .c => 1#3 | .d => 2#3 | .e => 3#3 | .h => 4#3 | .l => 5#3 | .mHL => 6#3 | .a => 7#3

/-- The code of a 16-bit operand (spec/30_encoding.md R183). -/
def R16.code : R16 → BitVec 2
  | .bc => 0#2 | .de => 1#2 | .hl => 2#2 | .sp => 3#2

/-- The code of a stack operand (spec/30_encoding.md R184). -/
def R16Stk.code : R16Stk → BitVec 2
  | .bc => 0#2 | .de => 1#2 | .hl => 2#2 | .af => 3#2

/-- The code of a memory pointer (spec/30_encoding.md R185). -/
def R16Mem.code : R16Mem → BitVec 2
  | .bc => 0#2 | .de => 1#2 | .hlInc => 2#2 | .hlDec => 3#2

/-- The code of a condition (spec/30_encoding.md R186). -/
def Cond.code : Cond → BitVec 2
  | .nz => 0#2 | .z => 1#2 | .nc => 2#2 | .c => 3#2

/-- The code of an ALU operation (spec/30_encoding.md R187). -/
def AluOp.code : AluOp → BitVec 3
  | .add => 0#3 | .adc => 1#3 | .sub => 2#3 | .sbc => 3#3
  | .and => 4#3 | .xor => 5#3 | .or => 6#3 | .cp => 7#3

/-- The code of a CB rotate, shift or swap (spec/30_encoding.md R188). -/
def RotOp.code : RotOp → BitVec 3
  | .rlc => 0#3 | .rrc => 1#3 | .rl => 2#3 | .rr => 3#3
  | .sla => 4#3 | .sra => 5#3 | .swap => 6#3 | .srl => 7#3

/-! ### The encoder -/

/-- Whether a form is 0xCB-prefixed, format FCB (spec/30_encoding.md R180, R204). -/
def Form.prefixed : Form → Bool
  | .rot _ _ | .bit _ _ | .res _ _ | .set _ _ => true
  | _ => false

/-- The opcode byte of a form, by the bit patterns of spec/30_encoding.md R203; for a prefixed form the
byte after 0xCB, by R204. -/
def Form.opcode : Form → Byte
  | .nop => 0b00000000#8
  | .ldMa16Sp _ => 0b00001000#8
  | .stop _ => 0b00010000#8
  | .jr _ => 0b00011000#8
  | .jrCond cc _ => 0b001#3 ++ cc.code ++ 0b000#3
  | .ld16 rr _ => 0b00#2 ++ rr.code ++ 0b0001#4
  | .addHl rr => 0b00#2 ++ rr.code ++ 0b1001#4
  | .ldIndA p => 0b00#2 ++ p.code ++ 0b0010#4
  | .ldAInd p => 0b00#2 ++ p.code ++ 0b1010#4
  | .inc16 rr => 0b00#2 ++ rr.code ++ 0b0011#4
  | .dec16 rr => 0b00#2 ++ rr.code ++ 0b1011#4
  | .inc r => 0b00#2 ++ r.code ++ 0b100#3
  | .dec r => 0b00#2 ++ r.code ++ 0b101#3
  | .ldImm r _ => 0b00#2 ++ r.code ++ 0b110#3
  | .rlca => 0b00000111#8
  | .rrca => 0b00001111#8
  | .rla => 0b00010111#8
  | .rra => 0b00011111#8
  | .daa => 0b00100111#8
  | .cpl => 0b00101111#8
  | .scf => 0b00110111#8
  | .ccf => 0b00111111#8
  | .ld r r' => 0b01#2 ++ r.code ++ r'.code
  | .halt => 0b01110110#8
  | .alu op r => 0b10#2 ++ op.code ++ r.code
  | .retCond cc => 0b110#3 ++ cc.code ++ 0b000#3
  | .ldhMa8A _ => 0b11100000#8
  | .addSp _ => 0b11101000#8
  | .ldhAMa8 _ => 0b11110000#8
  | .ldHlSp _ => 0b11111000#8
  | .pop rr => 0b11#2 ++ rr.code ++ 0b0001#4
  | .ret => 0b11001001#8
  | .reti => 0b11011001#8
  | .jpHL => 0b11101001#8
  | .ldSpHl => 0b11111001#8
  | .jpCond cc _ => 0b110#3 ++ cc.code ++ 0b010#3
  | .ldMcA => 0b11100010#8
  | .ldMa16A _ => 0b11101010#8
  | .ldAMc => 0b11110010#8
  | .ldAMa16 _ => 0b11111010#8
  | .jp _ => 0b11000011#8
  | .prefixCB => 0b11001011#8
  | .di => 0b11110011#8
  | .ei => 0b11111011#8
  | .callCond cc _ => 0b110#3 ++ cc.code ++ 0b100#3
  | .push rr => 0b11#2 ++ rr.code ++ 0b0101#4
  | .call _ => 0b11001101#8
  | .aluImm op _ => 0b11#2 ++ op.code ++ 0b110#3
  | .rst t => 0b11#2 ++ t ++ 0b111#3
  | .invalid opcode => opcode
  | .rot op r => 0b00#2 ++ op.code ++ r.code
  | .bit b r => 0b01#2 ++ b ++ r.code
  | .res b r => 0b10#2 ++ b ++ r.code
  | .set b r => 0b11#2 ++ b ++ r.code

/-- The immediate bytes of a form in fetch order: none, imm8, or imm16 low byte first
(spec/30_encoding.md R180, R191 to R194). -/
def Form.immBytes : Form → List Byte
  | .stop v | .ldImm _ v | .aluImm _ v | .ldhAMa8 v | .ldhMa8A v
  | .ldHlSp v | .addSp v | .jr v | .jrCond _ v => [v]
  | .ldAMa16 w | .ldMa16A w | .ld16 _ w | .ldMa16Sp w
  | .jp w | .jpCond _ w | .call w | .callCond _ w => [w.lo, w.hi]
  | _ => []

/-- The bytes of an instruction, the first at the lowest address (spec/30_encoding.md R180). The row PREFIX CB
is its one byte, which is no whole instruction. -/
def encode (i : Instr) : List Byte :=
  (if i.form.prefixed then [0xCB#8] else []) ++ (i.form.opcode :: i.form.immBytes)

/-- The byte length of a row: 2 for a prefixed one, else the opcode and its immediate bytes
(spec/30_encoding.md R180). -/
def Form.length (f : Form) : Nat :=
  if f.prefixed then 2 else 1 + f.immBytes.length

/-- The byte length of an instruction. -/
def Instr.length (i : Instr) : Nat := i.form.length

/-- The fetched operand value of a form, `zext_16(imm)` or `imm`; none where the form has no immediate
(spec/40_engine.md R242). -/
def Form.operandValue (f : Form) : Option Word :=
  match f.immBytes with
  | [v] => some (v.zeroExtend 16)
  | [lo, hi] => some (Word.ofBytes hi lo)
  | _ => none

/-! ### The unprefixed opcode map (spec/30_encoding.md R202), one definition a row -/

/-- Row 0x. -/
def mapRow0 (n8 : Byte) (n16 : Word) : List Instr :=
  [.nop, .ldBcD16 n16, .ldMbcA, .incBc,
   .incB, .decB, .ldBD8 n8, .rlca,
   .ldMa16Sp n16, .addHlBc, .ldAMbc, .decBc,
   .incC, .decC, .ldCD8 n8, .rrca]

/-- Row 1x. -/
def mapRow1 (n8 : Byte) (n16 : Word) : List Instr :=
  [.stop n8, .ldDeD16 n16, .ldMdeA, .incDe,
   .incD, .decD, .ldDD8 n8, .rla,
   .jrE8 n8, .addHlDe, .ldAMde, .decDe,
   .incE, .decE, .ldED8 n8, .rra]

/-- Row 2x. -/
def mapRow2 (n8 : Byte) (n16 : Word) : List Instr :=
  [.jrNzE8 n8, .ldHlD16 n16, .ldMhlIncA, .incHl,
   .incH, .decH, .ldHD8 n8, .daa,
   .jrZE8 n8, .addHlHl, .ldAMhlInc, .decHl,
   .incL, .decL, .ldLD8 n8, .cpl]

/-- Row 3x. -/
def mapRow3 (n8 : Byte) (n16 : Word) : List Instr :=
  [.jrNcE8 n8, .ldSpD16 n16, .ldMhlDecA, .incSp,
   .incMhl, .decMhl, .ldMhlD8 n8, .scf,
   .jrCE8 n8, .addHlSp, .ldAMhlDec, .decSp,
   .incA, .decA, .ldAD8 n8, .ccf]

/-- Row 4x. -/
def mapRow4 (_n8 : Byte) (_n16 : Word) : List Instr :=
  [.ldBB, .ldBC, .ldBD, .ldBE,
   .ldBH, .ldBL, .ldBMhl, .ldBA,
   .ldCB, .ldCC, .ldCD, .ldCE,
   .ldCH, .ldCL, .ldCMhl, .ldCA]

/-- Row 5x. -/
def mapRow5 (_n8 : Byte) (_n16 : Word) : List Instr :=
  [.ldDB, .ldDC, .ldDD, .ldDE,
   .ldDH, .ldDL, .ldDMhl, .ldDA,
   .ldEB, .ldEC, .ldED, .ldEE,
   .ldEH, .ldEL, .ldEMhl, .ldEA]

/-- Row 6x. -/
def mapRow6 (_n8 : Byte) (_n16 : Word) : List Instr :=
  [.ldHB, .ldHC, .ldHD, .ldHE,
   .ldHH, .ldHL, .ldHMhl, .ldHA,
   .ldLB, .ldLC, .ldLD, .ldLE,
   .ldLH, .ldLL, .ldLMhl, .ldLA]

/-- Row 7x. -/
def mapRow7 (_n8 : Byte) (_n16 : Word) : List Instr :=
  [.ldMhlB, .ldMhlC, .ldMhlD, .ldMhlE,
   .ldMhlH, .ldMhlL, .halt, .ldMhlA,
   .ldAB, .ldAC, .ldAD, .ldAE,
   .ldAH, .ldAL, .ldAMhl, .ldAA]

/-- Row 8x. -/
def mapRow8 (_n8 : Byte) (_n16 : Word) : List Instr :=
  [.addAB, .addAC, .addAD, .addAE,
   .addAH, .addAL, .addAMhl, .addAA,
   .adcAB, .adcAC, .adcAD, .adcAE,
   .adcAH, .adcAL, .adcAMhl, .adcAA]

/-- Row 9x. -/
def mapRow9 (_n8 : Byte) (_n16 : Word) : List Instr :=
  [.subB, .subC, .subD, .subE,
   .subH, .subL, .subMhl, .subA,
   .sbcAB, .sbcAC, .sbcAD, .sbcAE,
   .sbcAH, .sbcAL, .sbcAMhl, .sbcAA]

/-- Row Ax. -/
def mapRowA (_n8 : Byte) (_n16 : Word) : List Instr :=
  [.andB, .andC, .andD, .andE,
   .andH, .andL, .andMhl, .andA,
   .xorB, .xorC, .xorD, .xorE,
   .xorH, .xorL, .xorMhl, .xorA]

/-- Row Bx. -/
def mapRowB (_n8 : Byte) (_n16 : Word) : List Instr :=
  [.orB, .orC, .orD, .orE,
   .orH, .orL, .orMhl, .orA,
   .cpB, .cpC, .cpD, .cpE,
   .cpH, .cpL, .cpMhl, .cpA]

/-- Row Cx. -/
def mapRowC (n8 : Byte) (n16 : Word) : List Instr :=
  [.retNz, .popBc, .jpNzA16 n16, .jpA16 n16,
   .callNzA16 n16, .pushBc, .addAD8 n8, .rst00h,
   .retZ, .ret, .jpZA16 n16, .prefixCb,
   .callZA16 n16, .callA16 n16, .adcAD8 n8, .rst08h]

/-- Row Dx. -/
def mapRowD (n8 : Byte) (n16 : Word) : List Instr :=
  [.retNc, .popDe, .jpNcA16 n16, .invalidD3,
   .callNcA16 n16, .pushDe, .subD8 n8, .rst10h,
   .retC, .reti, .jpCA16 n16, .invalidDB,
   .callCA16 n16, .invalidDD, .sbcAD8 n8, .rst18h]

/-- Row Ex. -/
def mapRowE (n8 : Byte) (n16 : Word) : List Instr :=
  [.ldhMa8A n8, .popHl, .ldMcA, .invalidE3,
   .invalidE4, .pushHl, .andD8 n8, .rst20h,
   .addSpE8 n8, .jpHl, .ldMa16A n16, .invalidEB,
   .invalidEC, .invalidED, .xorD8 n8, .rst28h]

/-- Row Fx. -/
def mapRowF (n8 : Byte) (n16 : Word) : List Instr :=
  [.ldhAMa8 n8, .popAf, .ldAMc, .di,
   .invalidF4, .pushAf, .orD8 n8, .rst30h,
   .ldHlSpE8 n8, .ldSpHl, .ldAMa16 n16, .ei,
   .invalidFC, .invalidFD, .cpD8 n8, .rst38h]

/-- The sixteen rows of the unprefixed map. `n8` is the byte after the opcode and `n16` the two bytes after it. -/
def mainMap (n8 : Byte) (n16 : Word) : List (List Instr) :=
  [mapRow0 n8 n16, mapRow1 n8 n16, mapRow2 n8 n16, mapRow3 n8 n16,
   mapRow4 n8 n16, mapRow5 n8 n16, mapRow6 n8 n16, mapRow7 n8 n16,
   mapRow8 n8 n16, mapRow9 n8 n16, mapRowA n8 n16, mapRowB n8 n16,
   mapRowC n8 n16, mapRowD n8 n16, mapRowE n8 n16, mapRowF n8 n16]

/-- Lookup in the unprefixed table (spec/30_encoding.md R201, R202): row = high nibble, column = low nibble. -/
def decodeMain (op n8 : Byte) (n16 : Word) : Instr :=
  ((mainMap n8 n16).getD (op.toNat / 16) []).getD (op.toNat % 16) .nop

/-! ### The CB-prefixed opcode map (spec/30_encoding.md R204) -/

/-- The rows of CB-opcodes with x = 0, by y and then z. -/
def cbRotMap : List (List Instr) :=
  [[.rlcB, .rlcC, .rlcD, .rlcE, .rlcH, .rlcL, .rlcMhl, .rlcA],
   [.rrcB, .rrcC, .rrcD, .rrcE, .rrcH, .rrcL, .rrcMhl, .rrcA],
   [.rlB, .rlC, .rlD, .rlE, .rlH, .rlL, .rlMhl, .rlA],
   [.rrB, .rrC, .rrD, .rrE, .rrH, .rrL, .rrMhl, .rrA],
   [.slaB, .slaC, .slaD, .slaE, .slaH, .slaL, .slaMhl, .slaA],
   [.sraB, .sraC, .sraD, .sraE, .sraH, .sraL, .sraMhl, .sraA],
   [.swapB, .swapC, .swapD, .swapE, .swapH, .swapL, .swapMhl, .swapA],
   [.srlB, .srlC, .srlD, .srlE, .srlH, .srlL, .srlMhl, .srlA]]

/-- The rows of CB-opcodes with x = 1 (BIT), 2 (RES) and 3 (SET), by z, with the bit index of y. -/
def cbBitMap (b : BitVec 3) : List (List Instr) :=
  [[.bitB b, .bitC b, .bitD b, .bitE b, .bitH b, .bitL b, .bitMhl b, .bitA b],
   [.resB b, .resC b, .resD b, .resE b, .resH b, .resL b, .resMhl b, .resA b],
   [.setB b, .setC b, .setD b, .setE b, .setH b, .setL b, .setMhl b, .setA b]]

/-- Lookup in the CB-prefixed table (spec/30_encoding.md R204), by the fields x, y and z of R181. -/
def decodeCB (op : Byte) : Instr :=
  let x := op.toNat / 64
  let y := op.toNat / 8 % 8
  let z := op.toNat % 8
  if x = 0 then (cbRotMap.getD y []).getD z .nop
  else ((cbBitMap (op.extractLsb' 3 3)).getD (x - 1) []).getD z .nop

/-! ### The decoder -/

/-- The row that three consecutive bytes begin with: 0xCB selects the CB-prefixed table for the byte after it
(spec/30_encoding.md R195), any other byte is looked up in the unprefixed table with the bytes after it as its
immediate. Total: every one of the 512 encodings has its row. -/
def decodeWindow (b0 b1 b2 : Byte) : Instr :=
  if b0 = 0xCB#8 then decodeCB b1 else decodeMain b0 b1 (Word.ofBytes b2 b1)

/-- Why a list of bytes is no instruction: there is no byte, or the instruction it begins needs more bytes. -/
inductive DecodeError where
  | noBytes
  | truncated (opcode : Byte)
  deriving DecidableEq, Repr

/-- The instruction a list of bytes begins with and the bytes after it. A decoder tells the length from the first
byte (spec/30_encoding.md R180), so missing bytes are read as 0 for the lookup and the result is given only if
none was missing. The eleven invalid opcodes give their INVALID rows, which `Instr.wellFormed` refuses and whose
meaning is the fault UnknownOpcode (spec/30_encoding.md R196, R201). -/
def decode : List Byte → Except DecodeError (Instr × List Byte)
  | [] => .error .noBytes
  | b0 :: rest =>
    let i := decodeWindow b0 (rest.getD 0 0#8) (rest.getD 1 0#8)
    if i.length ≤ 1 + rest.length then .ok (i, rest.drop (i.length - 1)) else .error (.truncated b0)

/-! ### The opcode table's numbering of an instruction's bits -/

/-- The three bytes, in fetch order, of an instruction that the opcode table numbers as `w` with `nbits` bits,
zeros after them. The table writes a CB row as one 16-bit number with the prefix, the first byte, in bits 15
to 8 ("match" 0xCBnn); in every other row bit 0 is the least significant bit of the first byte. DEDUCED from the
rows (log entry 1). -/
def tableBytes (nbits w : Nat) : List Byte :=
  let v := w % 2 ^ nbits
  if nbits = 16 ∧ v / 256 = 0xCB then [0xCB#8, BitVec.ofNat 8 v, 0#8]
  else [BitVec.ofNat 8 v, BitVec.ofNat 8 (v / 256), BitVec.ofNat 8 (v / 65536)]

/-- The instruction the decoder reads from an instruction word of the opcode table. -/
def decodeTableWord (nbits w : Nat) : Option Instr :=
  match decode (tableBytes nbits w) with
  | .ok (i, _) => some i
  | .error _ => none

end Sys2Proof
end

