-- ==== Sys2Proof/Config.lean ====
section
/-! DEFINITION. The parameters of the block (spec/00_scope.md R6) and its free values
(spec/93_implementation_defined.md part 1, "any value"). A free value is an opaque constant without a
body, applied to a plain counter of the state or to an address: no proof can see what it is. -/

namespace Sys2Proof

/-- The parameter BOOT_PROFILE (spec/00_scope.md R6; spec/10_state.md R73). -/
inductive BootProfile where
  | postBootDMG
  | powerOn
  deriving DecidableEq, Repr, Inhabited

/-- The parameters that are not the bus: HALT_BUG, default true, and BOOT_PROFILE, default
PostBootDMG (spec/00_scope.md R6). The parameter BUS is the state's bus. -/
structure Params where
  haltBug : Bool := true
  boot : BootProfile := .postBootDMG
  deriving DecidableEq, Repr, Inhabited

/-- The IRQ lines of a step, a free draw (spec/10_state.md R75). The argument is the draw counter. -/
opaque Config.freeIrq : Nat → BitVec 5

/-- The STOP_WAKE input of a step, a free draw (spec/00_scope.md R14). The argument is the draw counter. -/
opaque Config.freeStopWake : Nat → Bool

/-- The byte a peripheral register of 0xFF00 to 0xFF7F gives under DMGBus ("device-defined",
spec/20_memory.md R134). The arguments are the draw counter of the step and the address, so a device
changes between steps only (spec/20_memory.md R137). -/
opaque Config.deviceByte : Nat → Nat → Byte

/-- The byte at an address of the bus that the host has not loaded, a draw of the load ("in general its value is a draw
of the load", spec/70_reset_and_hazards.md R603). The argument is the address. -/
opaque Config.unloadedByte : Nat → Byte

/-- The draws of a PowerOn reset (spec/70_reset_and_hazards.md R602), each by the draw counter. -/
opaque Config.powerOnA : Nat → Byte
/-- The draw of F[7:4] at a PowerOn reset (spec/10_state.md R73). -/
opaque Config.powerOnFlags : Nat → BitVec 4
/-- The draw of BC at a PowerOn reset. -/
opaque Config.powerOnBC : Nat → Word
/-- The draw of DE at a PowerOn reset. -/
opaque Config.powerOnDE : Nat → Word
/-- The draw of HL at a PowerOn reset. -/
opaque Config.powerOnHL : Nat → Word
/-- The draw of SP at a PowerOn reset. -/
opaque Config.powerOnSP : Nat → Word
/-- The draw of IE at a PowerOn reset. -/
opaque Config.powerOnIE : Nat → Byte

end Sys2Proof
end

