-- ==== Sys2Proof/Machine/State.lean ====
section
/-! DEFINITION. The state of the machine as plain data: the CPU state record of spec/10_state.md R50, the bus
behind the arbiter (spec/20_memory.md R132), the parameters (spec/00_scope.md R6), the step's inputs and the
snapshot it hands out (spec/00_scope.md R14, R15), and the locals of the step's pseudocode
(spec/40_engine.md R231). -/

namespace Sys2Proof.Machine

/-- The record of an UnknownOpcode fault (spec/60_exceptions.md R551). -/
structure FaultRecord where
  prefixed : Bool
  opcode : Byte
  address : Word
  deriving DecidableEq, Repr

/-- The CPU state (spec/10_state.md R50). The flags Z, N, H, C are views of bits 7 to 4 of `f` (R52) and the
8-bit registers B, C, D, E, H, L are halves of the pairs (R54), so neither has storage of its own. -/
structure Cpu where
  pc : Word
  sp : Word
  a : Byte
  f : Byte
  bc : Word
  de : Word
  hl : Word
  prefixed : Bool
  ir : Byte
  operandValue : Word
  ie : Byte
  ime : Bool
  halted : Bool
  imeScheduled : Bool
  stopped : Bool
  haltBugArmed : Bool
  cycles : Nat
  fault : Option FaultRecord
  deriving DecidableEq, Repr

/-- The label of a write record: the memory operand or the stack operation that wrote
(spec/20_memory.md R124). -/
inductive WriteLabel where
  | mHL | mBC | mDE | mHLInc | mHLDec | ma16 | ma8 | mC | push | call | rst | int
  deriving DecidableEq, Repr

/-- A write record: `bytes[i]` was stored at `(address + i) mod 2^16` (spec/20_memory.md R124). -/
structure WriteRecord where
  label : WriteLabel
  address : Word
  bytes : List Byte
  deriving DecidableEq, Repr

/-- What a step was: an instruction, the dispatch of interrupt source `n`, a halted or a stopped no-op
(spec/40_engine.md R245). The snapshot's descriptor is `Snapshot.descriptor`. -/
inductive StepKind where
  | instruction (i : Instr)
  | interrupt (n : Fin 5)
  | halted
  | stopped
  deriving DecidableEq, Repr

/-- The snapshot of a step (spec/00_scope.md R15; spec/40_engine.md R245). -/
structure Snapshot where
  before : Cpu
  after : Cpu
  kind : StepKind
  writes : List WriteRecord
  cycles : Nat
  irqAck : BitVec 5
  deriving DecidableEq, Repr

/-- The inputs of one step: the request lines `IRQ[4:0]` and `STOP_WAKE` (spec/00_scope.md R14). -/
structure Inputs where
  irq : BitVec 5
  stopWake : Bool
  deriving DecidableEq, Repr

/-- The locals of the step's pseudocode (spec/40_engine.md R231): BEFORE, FETCH_ADDR, the sampled inputs,
WriteLog, extra, IRQ_ACK, and the `taken` that the executing instruction returns (R243). Between steps it is
at rest (`StepLatch.rest`). -/
structure StepLatch where
  before : Cpu
  fetchAddr : Word
  irq : BitVec 5
  stopWake : Bool
  writes : List WriteRecord
  extra : Nat
  irqAck : BitVec 5
  taken : Bool
  deriving DecidableEq, Repr

/-- The latch between steps: nothing written, nothing acknowledged, no input sampled. -/
def StepLatch.rest (c : Cpu) : StepLatch where
  before := c
  fetchAddr := c.pc
  irq := 0#5
  stopWake := false
  writes := []
  extra := 0
  irqAck := 0#5
  taken := true

/-- What a region of the bus is (spec/20_memory.md R132, R134): storage, read-only storage, unmapped, an echo
of the address `back` lower, a peripheral's register, the interrupt flag register IF. -/
inductive RegionKind where
  | ram
  | rom
  | unmapped
  | echo (back : Nat)
  | device
  | interruptFlag
  deriving DecidableEq, Repr

/-- A region of the bus, its addresses `first` to `last`. -/
structure Region where
  first : Nat
  last : Nat
  kind : RegionKind
  deriving DecidableEq, Repr

/-- What a byte holds that nothing has been stored in: a draw of the load, any value in general, or a byte that is
known, 0x00 in every vector (spec/70_reset_and_hazards.md R603; log entry 8). -/
inductive Unloaded where
  | free
  | known (v : Byte)
  deriving DecidableEq, Repr

/-- Stored bytes: `cells` lists those that were loaded or written, by address and in one canonical form (`Memory.wf`),
and `unloaded` says what the others hold. -/
structure Memory where
  unloaded : Unloaded
  cells : List Host.Cell
  deriving DecidableEq, Repr

/-- Memory with nothing loaded: every byte is a draw (spec/70_reset_and_hazards.md R603). -/
def Memory.empty : Memory := ⟨.free, []⟩

/-- The bus behind the arbiter, the parameter BUS (spec/20_memory.md R132). An address in no region is storage,
so no region at all is FlatBus (R133). `irqFromIf` says that the request lines are the bits of IF and `ifReg` is
that register, which is outside the core (R134). -/
structure Bus where
  regions : List Region
  irqFromIf : Bool
  mem : Memory
  ifReg : BitVec 5
  deriving DecidableEq, Repr

/-- The state. `inputs` are the inputs the environment has fixed, the next step's first; after them each step's
inputs are free draws, indexed by `draws`. `stepped` says that a step has been taken, after which the host no longer
loads the bus (spec/00_scope.md R19; spec/20_memory.md R133). -/
structure State where
  cpu : Cpu
  bus : Bus
  params : Params
  inputs : List Inputs
  draws : Nat
  stepped : Bool
  cur : StepLatch
  snapshot : Option Snapshot
  deriving DecidableEq, Repr

/-- A field of the CPU state that the host may load (spec/00_scope.md R19; spec/10_state.md R50). -/
inductive CpuField where
  | pc | sp | a | f | z | n | h | c | bc | de | hl | prefixed | ir | operandValue | ie | ime | halted
  | imeScheduled | stopped | haltBugArmed | cycles
  deriving DecidableEq, Repr

/-- What a host load names: a field of the CPU state or a byte of the bus. -/
inductive LoadTarget where
  | field (which : CpuField)
  | busByte (address : Word)
  deriving DecidableEq, Repr

/-- The faults (spec/60_exceptions.md R550). -/
inductive Fault where
  /-- Raised by a step that decodes one of the eleven invalid opcodes, with the state `after` that the spec's
  outcome Fault(S, BUS, fault) holds (spec/60_exceptions.md R551), and by every later step, with the same record
  and the unchanged state (spec/10_state.md R70; spec/93_implementation_defined.md part 1). The spec's own fault:
  neither safe nor unsafe. -/
  | unknownOpcode (record : FaultRecord) (after : State)
  /-- Raised by the host's load of a value outside its field's width, never by a step; the prior state is kept
  (spec/60_exceptions.md R552). The spec's own fault: neither safe nor unsafe. -/
  | outOfRange (target : LoadTarget) (value : Int)
  deriving DecidableEq, Repr

/-- The refusals. -/
inductive Refusal where
  /-- Raised by an arm of `exec` whose instruction has no meaning yet. No arm raises it. Safe. -/
  | notModelled (mnemonic : String)
  /-- Raised by the host's load of bus bytes once a step has been taken, never by a step and by no instruction: the
  host loads the bus before the first step only (spec/00_scope.md R19; spec/20_memory.md R133). Safe. -/
  | busLoadAfterFirstStep
  deriving DecidableEq, Repr

/-- What a meaning answers. -/
abbrev Result := Host.Outcome State Fault Refusal

/-- The CPU state after a reset under profile PostBootDMG (spec/10_state.md R73). -/
def Cpu.postBootDMG : Cpu where
  pc := 0x0100#16
  sp := 0xFFFE#16
  a := 0x01#8
  f := 0xB0#8
  bc := 0x0013#16
  de := 0x00D8#16
  hl := 0x014D#16
  prefixed := false
  ir := 0x00#8
  operandValue := 0x0000#16
  ie := 0x00#8
  ime := false
  halted := false
  imeScheduled := false
  stopped := false
  haltBugArmed := false
  cycles := 0
  fault := none

/-- FlatBus with nothing loaded, the default bus (spec/20_memory.md R133). -/
def Bus.flat : Bus where
  regions := []
  irqFromIf := false
  mem := .empty
  ifReg := 0#5

/-- The machine right after reset under the default parameters (spec/10_state.md R73; spec/00_scope.md R6). The
spec gives the model's own fields no reset value: no inputs fixed, no draw made, no step taken, the latch at rest,
no snapshot are DESIGN CHOICE (log entries 6, 9 and 30). -/
def State.reset : State where
  cpu := Cpu.postBootDMG
  bus := Bus.flat
  params := { haltBug := true, boot := .postBootDMG }
  inputs := []
  draws := 0
  stepped := false
  cur := StepLatch.rest Cpu.postBootDMG
  snapshot := none

end Sys2Proof.Machine
end

