-- ==== Sys2Proof/Machine/Memory.lean ====
section
/-! DEFINITION. The storage behind the arbiter: the canonical list of bytes, the regions of a bus and its reads
and writes (spec/20_memory.md R132 to R134). -/

namespace Sys2Proof.Machine

/-! ### Stored bytes -/

/-- What an address that is not listed reads as: a free value or the known byte (spec/70_reset_and_hazards.md R603). -/
def Unloaded.byte (u : Unloaded) (a : Nat) : Byte :=
  match u with
  | .free => Config.unloadedByte a
  | .known v => v

/-- Whether a byte is known to be what every unlisted address reads as. No byte is known to be a draw. -/
def Unloaded.isKnown (u : Unloaded) (v : Byte) : Bool :=
  match u with
  | .free => false
  | .known w => v == w

/-- The byte that is listed at an address, if there is one. -/
def lookCells : List Host.Cell → Nat → Option Byte
  | [], _ => none
  | (k, v) :: m, a => if k = a then some v else lookCells m a

/-- Store a byte, keeping the canonical form: a byte known to be what an unlisted address reads as is not listed. -/
def writeCells (u : Unloaded) : List Host.Cell → Nat → Byte → List Host.Cell
  | [], a, v => if u.isKnown v then [] else [(a, v)]
  | (k, w) :: m, a, v =>
    if a < k then (if u.isKnown v then (k, w) :: m else (a, v) :: (k, w) :: m)
    else if a = k then (if u.isKnown v then m else (a, v) :: m)
    else (k, w) :: writeCells u m a v

/-- The byte at an address: the last byte stored there, else what the load left there (spec/20_memory.md R133;
spec/70_reset_and_hazards.md R603). -/
def Memory.read (m : Memory) (a : Nat) : Byte := (lookCells m.cells a).getD (m.unloaded.byte a)

/-- Store a byte (spec/20_memory.md R133). -/
def Memory.write (m : Memory) (a : Nat) (v : Byte) : Memory := { m with cells := writeCells m.unloaded m.cells a v }

/-- The canonical form: addresses strictly rising and below 65 536 (spec/20_memory.md R120), no entry known to be what
an unlisted address reads as. -/
abbrev Memory.wf (m : Memory) : Prop :=
  m.cells.Pairwise (fun c d => c.1 < d.1) ∧ ∀ c ∈ m.cells, m.unloaded.isKnown c.2 = false ∧ c.1 < 65536

/-! ### The bus -/

/-- FILL, the byte a bus returns for an unmapped address (spec/00_scope.md R6). -/
def Bus.fill : Byte := 0xFF#8

/-- Whether an address lies in a region. -/
def Region.holds (r : Region) (a : Nat) : Bool := decide (r.first ≤ a) && decide (a ≤ r.last)

/-- The kind of an address in a list of regions: that of the first region that holds it, storage if none does. -/
def kindIn : List Region → Nat → RegionKind
  | [], _ => .ram
  | r :: rs, a => if r.holds a then r.kind else kindIn rs a

/-- The kind of an address of a bus. -/
def Bus.kindAt (b : Bus) (a : Nat) : RegionKind := kindIn b.regions a

/-- Read a byte of the bus: total, without effect (spec/20_memory.md R122, R132, R134). `draw` indexes the step's
draws of device-defined bytes. -/
def Bus.read (b : Bus) (draw a : Nat) : Byte :=
  match b.kindAt a with
  | .ram | .rom => b.mem.read a
  | .unmapped => Bus.fill
  | .echo back => b.mem.read (a - back)
  | .device => Config.deviceByte draw a
  | .interruptFlag => 0b111#3 ++ b.ifReg

/-- Write a byte of the bus: a write of an unmapped or read-only address changes nothing
(spec/20_memory.md R132), a peripheral keeps what it is given to itself (R134). -/
def Bus.write (b : Bus) (a : Nat) (v : Byte) : Bus :=
  match b.kindAt a with
  | .ram => { b with mem := b.mem.write a v }
  | .rom | .unmapped | .device => b
  | .echo back => { b with mem := b.mem.write (a - back) v }
  | .interruptFlag => { b with ifReg := v.extractLsb' 0 5 }

/-- Store a byte as the host loads it before the first step: in `mem` at that very address, whatever the region's kind
(spec/70_reset_and_hazards.md R603). DESIGN CHOICE (log entry 29): the spec does not say where a load at an echo, IF,
peripheral or unmapped address of DMGBus goes (spec/20_memory.md R134); no read of the core reaches a byte stored
there. -/
def Bus.load (b : Bus) (a : Nat) (v : Byte) : Bus :=
  { b with mem := b.mem.write a v }

/-- The storage an address reads and writes: a byte of the bus memory, the IF register, the IE register, or none.
Two addresses of one storage are two names of it (an echo, spec/20_memory.md R134). -/
inductive Storage where
  | mem (a : Nat)
  | interruptFlag
  | interruptEnable
  | nowhere
  deriving DecidableEq, Repr

/-- The storage behind an address of a bus. -/
def Bus.storageAt (b : Bus) (a : Nat) : Storage :=
  match b.kindAt a with
  | .ram | .rom => .mem a
  | .echo back => .mem (a - back)
  | .interruptFlag => .interruptFlag
  | .unmapped | .device => .nowhere

/-- The memory map of the informational profile DMGBus (spec/20_memory.md R134). `cartRam` says whether the
cartridge has RAM. The row of IF stands before the I/O registers' row, which spans it. -/
def dmgRegions (cartRam : Bool) : List Region :=
  [⟨0x0000, 0x7FFF, .rom⟩,
   ⟨0xA000, 0xBFFF, if cartRam then .ram else .unmapped⟩,
   ⟨0xE000, 0xFDFF, .echo 0x2000⟩,
   ⟨0xFEA0, 0xFEFF, .unmapped⟩,
   ⟨0xFF0F, 0xFF0F, .interruptFlag⟩,
   ⟨0xFF00, 0xFF7F, .device⟩]

/-- DMGBus with nothing loaded (spec/20_memory.md R134). -/
def Bus.dmg (cartRam : Bool) : Bus where
  regions := dmgRegions cartRam
  irqFromIf := true
  mem := .empty
  ifReg := 0#5

/-- Under DMGBus the peripherals may set bits of IF between steps; under FlatBus nothing happens
(spec/20_memory.md R134). -/
def Bus.raise (b : Bus) (irq : BitVec 5) : Bus :=
  if b.irqFromIf then { b with ifReg := b.ifReg ||| irq } else b

/-- The request lines of the step: the bits of IF under DMGBus, the input else (spec/20_memory.md R133, R134).
The peripherals' requests have been raised before. -/
def Bus.requestLines (b : Bus) (irq : BitVec 5) : BitVec 5 :=
  if b.irqFromIf then b.ifReg else irq

/-- The acknowledge: the owner of IF clears the acknowledged bit after the step (spec/60_exceptions.md R561). -/
def Bus.acknowledge (b : Bus) (ack : BitVec 5) : Bus :=
  if b.irqFromIf then { b with ifReg := b.ifReg &&& ~~~ack } else b

end Sys2Proof.Machine
end

