-- ==== Sys2Proof/Machine/Ops.lean ====
section
/-! DEFINITION. The operations every meaning is written over: writing a register, the arbiter's memory access
and its write log, the stack, the pending interrupts, taking an interrupt and returning from one, and the fault
step of UnknownOpcode. -/

namespace Sys2Proof.Machine

/-! ### Writing one field of the CPU state -/

/-- `PC <- v`. -/
def State.setPc (s : State) (v : Word) : State := { s with cpu := { s.cpu with pc := v } }
/-- `SP <- v`. -/
def State.setSp (s : State) (v : Word) : State := { s with cpu := { s.cpu with sp := v } }
/-- `A <- v`. -/
def State.setA (s : State) (v : Byte) : State := { s with cpu := { s.cpu with a := v } }
/-- `F <- v`: bits 3 to 0 store 0 whatever value is supplied (spec/10_state.md R53). -/
def State.setF (s : State) (v : Byte) : State := { s with cpu := { s.cpu with f := v &&& 0xF0#8 } }
/-- `BC <- v`. -/
def State.setBc (s : State) (v : Word) : State := { s with cpu := { s.cpu with bc := v } }
/-- `DE <- v`. -/
def State.setDe (s : State) (v : Word) : State := { s with cpu := { s.cpu with de := v } }
/-- `HL <- v`. -/
def State.setHl (s : State) (v : Word) : State := { s with cpu := { s.cpu with hl := v } }
/-- `IE <- v`. -/
def State.setIe (s : State) (v : Byte) : State := { s with cpu := { s.cpu with ie := v } }
/-- `IME <- v`. -/
def State.setIme (s : State) (v : Bool) : State := { s with cpu := { s.cpu with ime := v } }
/-- `IME_SCHEDULED <- v`. -/
def State.setImeScheduled (s : State) (v : Bool) : State := { s with cpu := { s.cpu with imeScheduled := v } }
/-- `HALTED <- v`. -/
def State.setHalted (s : State) (v : Bool) : State := { s with cpu := { s.cpu with halted := v } }
/-- `STOPPED <- v`. -/
def State.setStopped (s : State) (v : Bool) : State := { s with cpu := { s.cpu with stopped := v } }
/-- `HALT_BUG_ARMED <- v`. -/
def State.setHaltBugArmed (s : State) (v : Bool) : State := { s with cpu := { s.cpu with haltBugArmed := v } }
/-- The bus is `b` now. -/
def State.setBus (s : State) (b : Bus) : State := { s with bus := b }
/-- The value `taken` the executing instruction returns (spec/40_engine.md R243). -/
def State.setTaken (s : State) (v : Bool) : State := { s with cur := { s.cur with taken := v } }
/-- `IRQ_ACK <- v`. -/
def State.setIrqAck (s : State) (v : BitVec 5) : State := { s with cur := { s.cur with irqAck := v } }
/-- `WriteLog.append(r)` (spec/20_memory.md R123). -/
def State.logWrite (s : State) (r : WriteRecord) : State :=
  { s with cur := { s.cur with writes := s.cur.writes ++ [r] } }

/-- `IR <- op; PREFIXED <- pre` (spec/40_engine.md R231). -/
def State.noteOpcode (s : State) (pre : Bool) (op : Byte) : State :=
  { s with cpu := { s.cpu with ir := op, prefixed := pre } }

/-- `F` as it reads: bits 3 to 0 are 0 (spec/10_state.md R53). -/
def State.readF (s : State) : Byte := s.cpu.f &&& 0xF0#8

/-! ### Memory through the arbiter -/

/-- The address the arbiter routes to IE (spec/20_memory.md R121). -/
def ieAddress : Word := 0xFFFF#16

/-- `MemRead(addr, 1)`: IE at 0xFFFF, the bus else (spec/20_memory.md R122). -/
def State.memRead (s : State) (a : Word) : Byte :=
  if a = ieAddress then s.cpu.ie else s.bus.read s.draws a.toNat

/-- The storage behind an address of the core. -/
def State.storageAt (s : State) (a : Word) : Storage :=
  if a = ieAddress then .interruptEnable else s.bus.storageAt a.toNat

/-- Two addresses name the same storage, so a store at one is seen at the other. -/
def State.sharesStorage (s : State) (a b : Word) : Prop :=
  s.storageAt a = s.storageAt b ∧ s.storageAt a ≠ .nowhere

/-- Store one byte: in IE at 0xFFFF, on the bus else (spec/20_memory.md R123). -/
def State.storeByte (s : State) (a : Word) (v : Byte) : State :=
  if a = ieAddress then s.setIe v else s.setBus (s.bus.write a.toNat v)

/-- Store bytes at an address and the ones after it, modulo 2^16, in ascending order (spec/20_memory.md R123). -/
def State.storeBytes (s : State) (a : Word) : List Byte → State
  | [] => s
  | v :: vs => (s.storeByte a v).storeBytes (a + 1#16) vs

/-- `MemWrite`: one record in the write log, then the bytes (spec/20_memory.md R123). -/
def State.memWrite (s : State) (label : WriteLabel) (a : Word) (bytes : List Byte) : State :=
  (s.logWrite ⟨label, a, bytes⟩).storeBytes a bytes

/-- The bytes of a 16-bit store: the low byte at the lower address (spec/20_memory.md R127). -/
def wordBytes (v : Word) : List Byte := [v.lo, v.hi]

/-- `Fetch8()`: the byte at PC, and PC advanced by 1 (spec/40_engine.md R237). -/
def State.fetch8 (s : State) : Byte × State := (s.memRead s.cpu.pc, s.setPc (s.cpu.pc + 1#16))

/-! ### The stack -/

/-- `Push16(v, label)` (spec/40_engine.md R249). -/
def State.push16 (s : State) (label : WriteLabel) (v : Word) : State :=
  (s.setSp (s.cpu.sp - 2#16)).memWrite label (s.cpu.sp - 2#16) (wordBytes v)

/-- The value `Pop16()` returns (spec/40_engine.md R250). -/
def State.stackTop (s : State) : Word :=
  Word.ofBytes (s.memRead (s.cpu.sp + 1#16)) (s.memRead s.cpu.sp)

/-- `Pop16()`'s change of SP (spec/40_engine.md R250). -/
def State.dropTop (s : State) : State := s.setSp (s.cpu.sp + 2#16)

/-! ### Pending interrupts -/

/-- `PENDING = IE[4:0] & IRQ[4:0]` of the current step (spec/10_state.md R75). -/
def State.pending (s : State) : BitVec 5 := s.cpu.ie.extractLsb' 0 5 &&& s.cur.irq

/-- Bit `n` of PENDING, the enable first: a source that IE masks is not pending whatever its request line is. -/
def State.pendingBit (s : State) (n : Nat) : Bool := s.cpu.ie.getLsbD n && s.cur.irq.getLsbD n

/-- The pending-enabled source with the lowest bit number, none if PENDING = 0 (spec/60_exceptions.md R559). -/
def State.lowestPending (s : State) : Option (Fin 5) :=
  if s.pendingBit 0 then some 0
  else if s.pendingBit 1 then some 1
  else if s.pendingBit 2 then some 2
  else if s.pendingBit 3 then some 3
  else if s.pendingBit 4 then some 4
  else none

/-! ### Taking an interrupt and returning from one -/

/-- The vector of source `n` (spec/60_exceptions.md R555). -/
def vector (n : Fin 5) : Word := 0x0040#16 + 8#16 * BitVec.ofNat 16 n.val

/-- The one bit of source `n`. -/
def sourceBit (n : Fin 5) : BitVec 5 := 1#5 <<< n.val

/-- The dispatch of source `n`: IME and IME_SCHEDULED cleared, PC pushed, PC at the vector, the source
acknowledged (spec/60_exceptions.md R560). Its 20 cycles are counted by the step. -/
def State.takeInterrupt (s : State) (n : Fin 5) : State :=
  ((((s.setIme false).setImeScheduled false).push16 .int s.cpu.pc).setPc (vector n)).setIrqAck (sourceBit n)

/-- The trap return: PC popped, IME set at once, IME_SCHEDULED cleared (spec/46_control.md R449;
spec/60_exceptions.md R564). -/
def State.returnFromInterrupt (s : State) : State :=
  ((s.dropTop.setPc s.stackTop).setIme true).setImeScheduled false

/-! ### The fault step -/

/-- The record of the current step's UnknownOpcode fault (spec/60_exceptions.md R551). No CB-prefixed byte
faults (spec/30_encoding.md R197), so `prefixed` is 0. -/
def State.unknownOpcodeRecord (s : State) (op : Byte) : FaultRecord := ⟨false, op, s.cur.fetchAddr⟩

/-- The CPU state of the fault outcome: the state at step entry but PC, HALT_BUG_ARMED and FAULT
(spec/60_exceptions.md R551; spec/40_engine.md R255; log entry 5). -/
def State.faultCpu (s : State) (op : Byte) : Cpu :=
  { s.cur.before with
    pc := s.cpu.pc
    haltBugArmed := s.cpu.haltBugArmed
    fault := some (s.unknownOpcodeRecord op) }

/-- `raise UnknownOpcode`: the fault outcome, with no memory written, an empty write log and no snapshot
(spec/60_exceptions.md R551). -/
def State.raiseUnknownOpcode (s : State) (op : Byte) : Result :=
  .fault (.unknownOpcode (s.unknownOpcodeRecord op)
    { s with cpu := s.faultCpu op, cur := StepLatch.rest (s.faultCpu op), snapshot := none })

end Sys2Proof.Machine
end

