-- ==== Sys2Proof/Machine/Descriptor.lean ====
section
/-! DEFINITION. The instruction descriptor of every row (spec/30_encoding.md R200): mnemonic, byte length, cycle
counts, operand descriptors and flags-effect string; and the pseudo-descriptors of the steps that execute no
instruction (spec/40_engine.md R245). Each is computed from the row's form. -/

namespace Sys2Proof.Machine

/-- A symbol of a flags-effect string: `-`, `1`, `0` or the flag's letter (spec/00_scope.md R12). -/
inductive FlagEffect where
  | unaffected | set | cleared | computed
  deriving DecidableEq, Repr

/-- A flags-effect string, in the order Z N H C (spec/00_scope.md R12). -/
structure FlagEffects where
  z : FlagEffect
  n : FlagEffect
  h : FlagEffect
  c : FlagEffect
  deriving DecidableEq, Repr

/-- The post-increment or post-decrement of HL of an operand (spec/30_encoding.md R200). -/
inductive PointerStep where
  | stay | increment | decrement
  deriving DecidableEq, Repr

/-- An operand descriptor (spec/30_encoding.md R200). The contents are DESIGN CHOICE (log entry 16). -/
structure OperandDescriptor where
  name : String
  width : Nat
  indirect : Bool
  step : PointerStep
  deriving DecidableEq, Repr

/-- An instruction descriptor (spec/30_encoding.md R200). The immediate-execution flag is omitted
(spec/92_eei_decisions.md D23). -/
structure Descriptor where
  mnemonic : String
  length : Nat
  cycles : List Nat
  operands : List OperandDescriptor
  flags : FlagEffects
  deriving DecidableEq, Repr

/-! ### Cycle counts (spec/70_reset_and_hazards.md R612 and the rule of each family) -/

/-- `reg` for a register operand, `mem` for (HL). -/
def R8.count (r : R8) (reg mem : Nat) : List Nat := if r = .mHL then [mem] else [reg]

/-- The cycle counts of a form: one, or taken and not-taken (spec/30_encoding.md R200). The prefix and the invalid
rows have none. -/
def Form.cycles : Form → List Nat
  | .nop | .stop _ | .halt | .di | .ei => [4]
  | .prefixCB | .invalid _ => []
  | .ld dst r => if dst = .mHL ∨ r = .mHL then [8] else [4]
  | .ldImm r _ => R8.count r 8 12
  | .ldAInd _ | .ldIndA _ => [8]
  | .ldAMa16 _ | .ldMa16A _ => [16]
  | .ldhAMa8 _ | .ldhMa8A _ => [12]
  | .ldAMc | .ldMcA => [8]
  | .ld16 _ _ => [12]
  | .ldMa16Sp _ => [20]
  | .ldSpHl => [8]
  | .ldHlSp _ => [12]
  | .push _ => [16]
  | .pop _ => [12]
  | .alu _ r => R8.count r 4 8
  | .aluImm _ _ => [8]
  | .inc r | .dec r => R8.count r 4 12
  | .inc16 _ | .dec16 _ | .addHl _ => [8]
  | .addSp _ => [16]
  | .rlca | .rrca | .rla | .rra | .daa | .cpl | .scf | .ccf => [4]
  | .jp _ => [16]
  | .jpCond _ _ => [16, 12]
  | .jpHL => [4]
  | .jr _ => [12]
  | .jrCond _ _ => [12, 8]
  | .call _ => [24]
  | .callCond _ _ => [24, 12]
  | .ret => [16]
  | .retCond _ => [20, 8]
  | .reti => [16]
  | .rst _ => [16]
  | .rot _ r => R8.count r 8 16
  | .bit _ r => R8.count r 8 12
  | .res _ r | .set _ r => R8.count r 8 16

/-- The count a step reports: the first when taken or when there is one, the second else
(spec/40_engine.md R231, R244). -/
def selectCycles (counts : List Nat) (taken : Bool) : Nat :=
  match counts with
  | [] => 0
  | [n] => n
  | n :: m :: _ => if taken then n else m

/-! ### Flags-effect strings (the *Flags* line of each rule) -/

/-- `----`. -/
def FlagEffects.keepAll : FlagEffects := ⟨.unaffected, .unaffected, .unaffected, .unaffected⟩

/-- The flags-effect string of an ALU operation (spec/43_alu8.md R350 to R357). -/
def AluOp.flags : AluOp → FlagEffects
  | .add | .adc => ⟨.computed, .cleared, .computed, .computed⟩
  | .sub | .sbc | .cp => ⟨.computed, .set, .computed, .computed⟩
  | .and => ⟨.computed, .cleared, .set, .cleared⟩
  | .xor | .or => ⟨.computed, .cleared, .cleared, .cleared⟩

/-- The flags-effect string of a form. -/
def Form.flags : Form → FlagEffects
  | .ldHlSp _ | .addSp _ => ⟨.cleared, .cleared, .computed, .computed⟩
  | .pop .af => ⟨.computed, .computed, .computed, .computed⟩
  | .alu op _ | .aluImm op _ => AluOp.flags op
  | .inc _ => ⟨.computed, .cleared, .computed, .unaffected⟩
  | .dec _ => ⟨.computed, .set, .computed, .unaffected⟩
  | .addHl _ => ⟨.unaffected, .cleared, .computed, .computed⟩
  | .rlca | .rrca | .rla | .rra => ⟨.cleared, .cleared, .cleared, .computed⟩
  | .daa => ⟨.computed, .unaffected, .cleared, .computed⟩
  | .cpl => ⟨.unaffected, .set, .set, .unaffected⟩
  | .scf => ⟨.unaffected, .cleared, .cleared, .set⟩
  | .ccf => ⟨.unaffected, .cleared, .cleared, .computed⟩
  | .rot .swap _ => ⟨.computed, .cleared, .cleared, .cleared⟩
  | .rot _ _ => ⟨.computed, .cleared, .cleared, .computed⟩
  | .bit _ _ => ⟨.computed, .cleared, .set, .unaffected⟩
  | _ => FlagEffects.keepAll

/-! ### Mnemonics (spec/30_encoding.md R205) -/

/-- The name of an 8-bit operand. -/
def R8.name : R8 → String
  | .b => "B" | .c => "C" | .d => "D" | .e => "E" | .h => "H" | .l => "L" | .mHL => "(HL)" | .a => "A"

/-- The name of a 16-bit operand. -/
def R16.name : R16 → String
  | .bc => "BC" | .de => "DE" | .hl => "HL" | .sp => "SP"

/-- The name of a stack operand. -/
def R16Stk.name : R16Stk → String
  | .bc => "BC" | .de => "DE" | .hl => "HL" | .af => "AF"

/-- The name of a memory pointer. -/
def R16Mem.name : R16Mem → String
  | .bc => "(BC)" | .de => "(DE)" | .hlInc => "(HL+)" | .hlDec => "(HL-)"

/-- The name of a condition. -/
def Cond.name : Cond → String
  | .nz => "NZ" | .z => "Z" | .nc => "NC" | .c => "C"

/-- An ALU operation with its operands up to the last: ADD, ADC and SBC name A, the others imply it. -/
def AluOp.head : AluOp → String
  | .add => "ADD A," | .adc => "ADC A," | .sub => "SUB " | .sbc => "SBC A,"
  | .and => "AND " | .xor => "XOR " | .or => "OR " | .cp => "CP "

/-- The name of a CB rotate, shift or swap. -/
def RotOp.name : RotOp → String
  | .rlc => "RLC" | .rrc => "RRC" | .rl => "RL" | .rr => "RR"
  | .sla => "SLA" | .sra => "SRA" | .swap => "SWAP" | .srl => "SRL"

/-- The name of a restart target. -/
def restartName (t : BitVec 3) : String :=
  ["00H", "08H", "10H", "18H", "20H", "28H", "30H", "38H"].getD t.toNat "00H"

/-- The digit of a bit index. -/
def bitName (b : BitVec 3) : String := ["0", "1", "2", "3", "4", "5", "6", "7"].getD b.toNat "0"

/-- The mnemonic of a form, as the table spells it, with the bit index of BIT, RES and SET as a number
(spec/30_encoding.md R205, R206). -/
def Form.mnemonic : Form → String
  | .nop => "NOP"
  | .stop _ => "STOP"
  | .halt => "HALT"
  | .di => "DI"
  | .ei => "EI"
  | .prefixCB => "PREFIX CB"
  | .invalid _ => "INVALID"
  | .ld dst r => "LD " ++ R8.name dst ++ "," ++ R8.name r
  | .ldImm dst _ => "LD " ++ R8.name dst ++ ",d8"
  | .ldAInd p => "LD A," ++ R16Mem.name p
  | .ldIndA p => "LD " ++ R16Mem.name p ++ ",A"
  | .ldAMa16 _ => "LD A,(a16)"
  | .ldMa16A _ => "LD (a16),A"
  | .ldhAMa8 _ => "LDH A,(a8)"
  | .ldhMa8A _ => "LDH (a8),A"
  | .ldAMc => "LD A,(C)"
  | .ldMcA => "LD (C),A"
  | .ld16 rr _ => "LD " ++ R16.name rr ++ ",d16"
  | .ldMa16Sp _ => "LD (a16),SP"
  | .ldSpHl => "LD SP,HL"
  | .ldHlSp _ => "LD HL,SP+e8"
  | .push rr => "PUSH " ++ R16Stk.name rr
  | .pop rr => "POP " ++ R16Stk.name rr
  | .alu op r => AluOp.head op ++ R8.name r
  | .aluImm op _ => AluOp.head op ++ "d8"
  | .inc r => "INC " ++ R8.name r
  | .dec r => "DEC " ++ R8.name r
  | .inc16 rr => "INC " ++ R16.name rr
  | .dec16 rr => "DEC " ++ R16.name rr
  | .addHl rr => "ADD HL," ++ R16.name rr
  | .addSp _ => "ADD SP,e8"
  | .rlca => "RLCA"
  | .rrca => "RRCA"
  | .rla => "RLA"
  | .rra => "RRA"
  | .daa => "DAA"
  | .cpl => "CPL"
  | .scf => "SCF"
  | .ccf => "CCF"
  | .jp _ => "JP a16"
  | .jpCond cc _ => "JP " ++ Cond.name cc ++ ",a16"
  | .jpHL => "JP HL"
  | .jr _ => "JR e8"
  | .jrCond cc _ => "JR " ++ Cond.name cc ++ ",e8"
  | .call _ => "CALL a16"
  | .callCond cc _ => "CALL " ++ Cond.name cc ++ ",a16"
  | .ret => "RET"
  | .retCond cc => "RET " ++ Cond.name cc
  | .reti => "RETI"
  | .rst t => "RST " ++ restartName t
  | .rot op r => RotOp.name op ++ " " ++ R8.name r
  | .bit b r => "BIT " ++ bitName b ++ "," ++ R8.name r
  | .res b r => "RES " ++ bitName b ++ "," ++ R8.name r
  | .set b r => "SET " ++ bitName b ++ "," ++ R8.name r

/-! ### Operand descriptors -/

/-- A register or an immediate: no memory access. -/
def direct (name : String) (width : Nat) : OperandDescriptor := ⟨name, width, false, .stay⟩

/-- A memory operand whose address is in the named register or immediate. -/
def viaMemory (name : String) (width : Nat) : OperandDescriptor := ⟨name, width, true, .stay⟩

/-- The descriptor of an 8-bit operand. -/
def R8.operand (r : R8) : OperandDescriptor :=
  match r with
  | .mHL => viaMemory "HL" 2
  | _ => direct (R8.name r) 1

/-- The descriptor of a memory pointer. -/
def R16Mem.operand : R16Mem → OperandDescriptor
  | .bc => viaMemory "BC" 2
  | .de => viaMemory "DE" 2
  | .hlInc => ⟨"HL", 2, true, .increment⟩
  | .hlDec => ⟨"HL", 2, true, .decrement⟩

/-- The operand descriptors of a form, in the order of its mnemonic. -/
def Form.operands : Form → List OperandDescriptor
  | .ld dst r => [R8.operand dst, R8.operand r]
  | .ldImm dst _ => [R8.operand dst, direct "d8" 1]
  | .ldAInd p => [direct "A" 1, R16Mem.operand p]
  | .ldIndA p => [R16Mem.operand p, direct "A" 1]
  | .ldAMa16 _ => [direct "A" 1, viaMemory "a16" 2]
  | .ldMa16A _ => [viaMemory "a16" 2, direct "A" 1]
  | .ldhAMa8 _ => [direct "A" 1, viaMemory "a8" 1]
  | .ldhMa8A _ => [viaMemory "a8" 1, direct "A" 1]
  | .ldAMc => [direct "A" 1, viaMemory "C" 1]
  | .ldMcA => [viaMemory "C" 1, direct "A" 1]
  | .ld16 rr _ => [direct (R16.name rr) 2, direct "d16" 2]
  | .ldMa16Sp _ => [viaMemory "a16" 2, direct "SP" 2]
  | .ldSpHl => [direct "SP" 2, direct "HL" 2]
  | .ldHlSp _ => [direct "HL" 2, direct "SP" 2, direct "e8" 1]
  | .push rr | .pop rr => [direct (R16Stk.name rr) 2]
  | .alu op r =>
    match op with
    | .add | .adc | .sbc => [direct "A" 1, R8.operand r]
    | _ => [R8.operand r]
  | .aluImm op _ =>
    match op with
    | .add | .adc | .sbc => [direct "A" 1, direct "d8" 1]
    | _ => [direct "d8" 1]
  | .inc r | .dec r | .rot _ r => [R8.operand r]
  | .inc16 rr | .dec16 rr => [direct (R16.name rr) 2]
  | .addHl rr => [direct "HL" 2, direct (R16.name rr) 2]
  | .addSp _ => [direct "SP" 2, direct "e8" 1]
  | .jp _ | .call _ => [direct "a16" 2]
  | .jpCond cc _ | .callCond cc _ => [direct (Cond.name cc) 1, direct "a16" 2]
  | .jpHL => [direct "HL" 2]
  | .jr _ => [direct "e8" 1]
  | .jrCond cc _ => [direct (Cond.name cc) 1, direct "e8" 1]
  | .retCond cc => [direct (Cond.name cc) 1]
  | .rst t => [direct (restartName t) 1]
  | .bit b r | .res b r | .set b r => [direct (bitName b) 1, R8.operand r]
  | _ => []

/-! ### Descriptors -/

/-- The descriptor of an instruction (spec/30_encoding.md R200). -/
def instrDescriptor (i : Instr) : Descriptor where
  mnemonic := Form.mnemonic i.form
  length := i.length
  cycles := Form.cycles i.form
  operands := Form.operands i.form
  flags := Form.flags i.form

/-- The pseudo-descriptor of a step that executes no instruction (spec/40_engine.md R245). DESIGN CHOICE (log entry 31):
R245 gives its mnemonic, length, cycles and flags; its operand list, of which the spec says nothing, is empty. -/
def pseudoDescriptor (name : String) (cycles : Nat) : Descriptor :=
  ⟨name, 0, [cycles], [], FlagEffects.keepAll⟩

/-- The name of a dispatch's pseudo-descriptor (spec/60_exceptions.md R555). -/
def interruptName (n : Fin 5) : String :=
  ["INT 40H", "INT 48H", "INT 50H", "INT 58H", "INT 60H"].getD n.val "INT 40H"

/-- The descriptor a snapshot holds (spec/40_engine.md R245). A dispatch's count is that of its step, 20, or 24
when the step woke from HALT. -/
def Snapshot.descriptor (p : Snapshot) : Descriptor :=
  match p.kind with
  | .instruction i => instrDescriptor i
  | .interrupt n => pseudoDescriptor (interruptName n) p.cycles
  | .halted => pseudoDescriptor "HALTED" 4
  | .stopped => pseudoDescriptor "STOPPED" 4

/-- The text of a write label (spec/20_memory.md R124). -/
def WriteLabel.text : WriteLabel → String
  | .mHL => "(HL)" | .mBC => "(BC)" | .mDE => "(DE)" | .mHLInc => "(HL+)" | .mHLDec => "(HL-)"
  | .ma16 => "(a16)" | .ma8 => "(a8)" | .mC => "(C)"
  | .push => "PUSH" | .call => "CALL" | .rst => "RST" | .int => "INT"

end Sys2Proof.Machine
end

