-- ==== Sys2Proof/Machine/Flags.lean ====
section
/-! DEFINITION. The flags and every computation that sets them (spec/10_state.md R52; spec/40_engine.md R251 to
R253; spec/43_alu8.md; spec/44_alu16.md; spec/45_acc_misc.md; spec/48_cb_bitops.md). -/

namespace Sys2Proof.Machine

/-- Z, bit 7 of F (spec/10_state.md R52). -/
def State.flagZ (s : State) : Bool := s.cpu.f.getLsbD 7
/-- N, bit 6 of F. -/
def State.flagN (s : State) : Bool := s.cpu.f.getLsbD 6
/-- Hf, bit 5 of F. -/
def State.flagH (s : State) : Bool := s.cpu.f.getLsbD 5
/-- Cy, bit 4 of F. -/
def State.flagC (s : State) : Bool := s.cpu.f.getLsbD 4

/-- The byte of four flags, `z n h c 0000`. -/
def flagByte (z n h c : Bool) : Byte :=
  BitVec.ofBool z ++ BitVec.ofBool n ++ BitVec.ofBool h ++ BitVec.ofBool c ++ 0b0000#4

/-- `SetFlags(z, n, h, c)`: `none` is the argument `-`, which leaves its flag (spec/40_engine.md R251). -/
def State.setFlags (s : State) (z n h c : Option Bool) : State :=
  s.setF (flagByte (z.getD s.flagZ) (n.getD s.flagN) (h.getD s.flagH) (c.getD s.flagC))

/-- The result of an 8-bit addition or subtraction with its half-carry and carry. -/
structure Sum8 where
  res : Byte
  half : Bool
  cout : Bool
  deriving DecidableEq, Repr

/-- The low nibble of a byte as a number, `int(a[3:0])`. -/
def lowNibble (a : Byte) : Nat := (a.extractLsb' 0 4).toNat

/-- `Add8(a, b, cin)` (spec/40_engine.md R252). -/
def add8 (a b : Byte) (cin : Bool) : Sum8 where
  res := BitVec.ofNat 8 (a.toNat + b.toNat + cin.toNat)
  half := decide (lowNibble a + lowNibble b + cin.toNat > 15)
  cout := decide (a.toNat + b.toNat + cin.toNat > 255)

/-- `Sub8(a, b, bin)` (spec/40_engine.md R253). -/
def sub8 (a b : Byte) (bin : Bool) : Sum8 where
  res := BitVec.ofInt 8 ((a.toNat : Int) - b.toNat - bin.toNat)
  half := decide ((lowNibble a : Int) - lowNibble b - bin.toNat < 0)
  cout := decide ((a.toNat : Int) - b.toNat - bin.toNat < 0)

/-- Carry out of bit 11 of a 16-bit addition (spec/44_alu16.md R392). -/
def halfCarry16 (a b : Word) : Bool :=
  decide ((a.extractLsb' 0 12).toNat + (b.extractLsb' 0 12).toNat > 0x0FFF)

/-- Carry out of bit 15 of a 16-bit addition (spec/44_alu16.md R392). -/
def carry16 (a b : Word) : Bool := decide (a.toNat + b.toNat > 0xFFFF)

/-- The result and the carry of a rotate, shift or swap of `v` with carry-in `cy` (spec/48_cb_bitops.md R510 to
R517; spec/45_acc_misc.md R410 to R413). -/
def rotate (op : RotOp) (v : Byte) (cy : Bool) : Byte × Bool :=
  match op with
  | .rlc => (v.extractLsb' 0 7 ++ v.extractLsb' 7 1, v.getLsbD 7)
  | .rrc => (v.extractLsb' 0 1 ++ v.extractLsb' 1 7, v.getLsbD 0)
  | .rl => (v.extractLsb' 0 7 ++ BitVec.ofBool cy, v.getLsbD 7)
  | .rr => (BitVec.ofBool cy ++ v.extractLsb' 1 7, v.getLsbD 0)
  | .sla => (v.extractLsb' 0 7 ++ 0#1, v.getLsbD 7)
  | .sra => (v.extractLsb' 7 1 ++ v.extractLsb' 1 7, v.getLsbD 0)
  | .swap => (v.extractLsb' 0 4 ++ v.extractLsb' 4 4, false)
  | .srl => (0#1 ++ v.extractLsb' 1 7, v.getLsbD 0)

/-- The correction DAA adds or subtracts (spec/45_acc_misc.md R414): 0x06 and 0x60, each on its condition. -/
def daaAdjust (a : Byte) (n h c : Bool) : Byte :=
  (if h || (!n && decide (lowNibble a > 9)) then 0x06#8 else 0x00#8) |||
    (if c || (!n && decide (a.toNat > 0x99)) then 0x60#8 else 0x00#8)

/-- The carry after DAA: set when the 0x60 correction applies, kept else (spec/45_acc_misc.md R414). -/
def daaCarry (a : Byte) (n c : Bool) : Bool :=
  if c || (!n && decide (a.toNat > 0x99)) then true else c

/-- A after DAA (spec/45_acc_misc.md R414). -/
def daaResult (a : Byte) (n h c : Bool) : Byte :=
  if n then a - daaAdjust a n h c else a + daaAdjust a n h c

end Sys2Proof.Machine
end

