-- ==== Sys2Proof/Machine/Operands.lean ====
section
/-! DEFINITION. Every operand form: the fields R8, R16, R16STK and R16MEM, the high page, the signed displacement
and the conditions (spec/30_encoding.md R182 to R194; spec/40_engine.md R246 to R248). -/

namespace Sys2Proof.Machine

/-- `ReadR8(r)` (spec/40_engine.md R246); a half of a pair is its high or low byte (spec/10_state.md R54). -/
def State.readR8 (s : State) (r : R8) : Byte :=
  match r with
  | .b => s.cpu.bc.hi
  | .c => s.cpu.bc.lo
  | .d => s.cpu.de.hi
  | .e => s.cpu.de.lo
  | .h => s.cpu.hl.hi
  | .l => s.cpu.hl.lo
  | .mHL => s.memRead s.cpu.hl
  | .a => s.cpu.a

/-- `WriteR8(r, v)` (spec/40_engine.md R247); writing a half of a pair leaves the other (spec/10_state.md R54). -/
def State.writeR8 (s : State) (r : R8) (v : Byte) : State :=
  match r with
  | .b => s.setBc (Word.ofBytes v s.cpu.bc.lo)
  | .c => s.setBc (Word.ofBytes s.cpu.bc.hi v)
  | .d => s.setDe (Word.ofBytes v s.cpu.de.lo)
  | .e => s.setDe (Word.ofBytes s.cpu.de.hi v)
  | .h => s.setHl (Word.ofBytes v s.cpu.hl.lo)
  | .l => s.setHl (Word.ofBytes s.cpu.hl.hi v)
  | .mHL => s.memWrite .mHL s.cpu.hl [v]
  | .a => s.setA v

/-- Reading `R16[p]` (spec/30_encoding.md R183). -/
def State.readR16 (s : State) (r : R16) : Word :=
  match r with
  | .bc => s.cpu.bc
  | .de => s.cpu.de
  | .hl => s.cpu.hl
  | .sp => s.cpu.sp

/-- Writing `R16[p]` (spec/30_encoding.md R183). -/
def State.writeR16 (s : State) (r : R16) (v : Word) : State :=
  match r with
  | .bc => s.setBc v
  | .de => s.setDe v
  | .hl => s.setHl v
  | .sp => s.setSp v

/-- Reading `R16STK[p]`; AF is A : F (spec/30_encoding.md R184; spec/10_state.md R55). -/
def State.readStk (s : State) (r : R16Stk) : Word :=
  match r with
  | .bc => s.cpu.bc
  | .de => s.cpu.de
  | .hl => s.cpu.hl
  | .af => Word.ofBytes s.cpu.a s.readF

/-- Writing `R16STK[p]`; writing AF writes A and F[7:4], and F[3:0] stores 0 (spec/10_state.md R55). -/
def State.writeStk (s : State) (r : R16Stk) (v : Word) : State :=
  match r with
  | .bc => s.setBc v
  | .de => s.setDe v
  | .hl => s.setHl v
  | .af => (s.setA v.hi).setF v.lo

/-- The address of `R16MEM[p]` (spec/30_encoding.md R185). -/
def State.pointer (s : State) (p : R16Mem) : Word :=
  match p with
  | .bc => s.cpu.bc
  | .de => s.cpu.de
  | .hlInc | .hlDec => s.cpu.hl

/-- The change of HL after an access through `R16MEM[p]` (spec/30_encoding.md R185). -/
def State.stepPointer (s : State) (p : R16Mem) : State :=
  match p with
  | .bc | .de => s
  | .hlInc => s.setHl (s.cpu.hl + 1#16)
  | .hlDec => s.setHl (s.cpu.hl - 1#16)

/-- The label of a write through `R16MEM[p]` (spec/20_memory.md R124). -/
def pointerLabel : R16Mem → WriteLabel
  | .bc => .mBC
  | .de => .mDE
  | .hlInc => .mHLInc
  | .hlDec => .mHLDec

/-- An address of the high page, `0xFF00 | zext_16(offset)` (spec/30_encoding.md R194). -/
def highPage (offset : Byte) : Word := 0xFF00#16 ||| offset.zeroExtend 16

/-- The displacement `sext_16(e8)` (spec/30_encoding.md R192). -/
def displacement (e8 : Byte) : Word := e8.signExtend 16

/-- `Cond(cc)` (spec/40_engine.md R248). -/
def State.cond (s : State) (cc : Cond) : Bool :=
  match cc with
  | .nz => !s.flagZ
  | .z => s.flagZ
  | .nc => !s.flagC
  | .c => s.flagC

end Sys2Proof.Machine
end

