-- ==== Sys2Proof/Machine/Acc.lean ====
section
/-! DEFINITION. Accumulator rotates, flag operations and NOP (spec/45_acc_misc.md R410 to R418). -/

namespace Sys2Proof.Machine

/-- A rotate of A: Z, N and H are cleared even for a zero result (R410 to R413). -/
def State.rotateA (s : State) (op : RotOp) : Result :=
  .next ((s.setA (rotate op s.cpu.a s.flagC).1).setFlags (some false) (some false) (some false)
    (some (rotate op s.cpu.a s.flagC).2))

/-- NOP: R418. -/
def execNop (s : State) : Result := .next s

/-- RLCA: R410. -/
def execRlca (s : State) : Result := s.rotateA .rlc

/-- RRCA: R411. -/
def execRrca (s : State) : Result := s.rotateA .rrc

/-- RLA: R412. -/
def execRla (s : State) : Result := s.rotateA .rl

/-- RRA: R413. -/
def execRra (s : State) : Result := s.rotateA .rr

/-- DAA: R414. -/
def execDaa (s : State) : Result :=
  .next ((s.setA (daaResult s.cpu.a s.flagN s.flagH s.flagC)).setFlags
    (some (decide (daaResult s.cpu.a s.flagN s.flagH s.flagC = 0#8))) none (some false)
    (some (daaCarry s.cpu.a s.flagN s.flagC)))

/-- CPL: R415. -/
def execCpl (s : State) : Result := .next ((s.setA (s.cpu.a ^^^ 0xFF#8)).setFlags none (some true) (some true) none)

/-- SCF: R416. -/
def execScf (s : State) : Result := .next (s.setFlags none (some false) (some false) (some true))

/-- CCF: R417. -/
def execCcf (s : State) : Result := .next (s.setFlags none (some false) (some false) (some (!s.flagC)))

end Sys2Proof.Machine
end

