-- ==== Sys2Proof/Machine/Alu16.lean ====
section
/-! DEFINITION. 16-bit arithmetic (spec/44_alu16.md R390 to R393). -/

namespace Sys2Proof.Machine

/-- `R16[rr] <- R16[rr] + 1`, no flag: R390. -/
def State.incR16 (s : State) (rr : R16) : Result := .next (s.writeR16 rr (s.readR16 rr + 1#16))

/-- `R16[rr] <- R16[rr] - 1`, no flag: R391. -/
def State.decR16 (s : State) (rr : R16) : Result := .next (s.writeR16 rr (s.readR16 rr - 1#16))

/-- `ADD HL,rr`: R392. Z is unchanged. -/
def State.addHlR16 (s : State) (rr : R16) : Result :=
  .next ((s.setHl (s.cpu.hl + s.readR16 rr)).setFlags none (some false)
    (some (halfCarry16 s.cpu.hl (s.readR16 rr))) (some (carry16 s.cpu.hl (s.readR16 rr))))

/-- INC BC: R390. -/
def execIncBc (s : State) : Result := s.incR16 .bc

/-- ADD HL,BC: R392. -/
def execAddHlBc (s : State) : Result := s.addHlR16 .bc

/-- DEC BC: R391. -/
def execDecBc (s : State) : Result := s.decR16 .bc

/-- INC DE: R390. -/
def execIncDe (s : State) : Result := s.incR16 .de

/-- ADD HL,DE: R392. -/
def execAddHlDe (s : State) : Result := s.addHlR16 .de

/-- DEC DE: R391. -/
def execDecDe (s : State) : Result := s.decR16 .de

/-- INC HL: R390. -/
def execIncHl (s : State) : Result := s.incR16 .hl

/-- ADD HL,HL: R392. -/
def execAddHlHl (s : State) : Result := s.addHlR16 .hl

/-- DEC HL: R391. -/
def execDecHl (s : State) : Result := s.decR16 .hl

/-- INC SP: R390. -/
def execIncSp (s : State) : Result := s.incR16 .sp

/-- ADD HL,SP: R392. -/
def execAddHlSp (s : State) : Result := s.addHlR16 .sp

/-- DEC SP: R391. -/
def execDecSp (s : State) : Result := s.decR16 .sp

/-- ADD SP,e8: R393. -/
def execAddSpE8 (e8 : Byte) (s : State) : Result :=
  .next ((s.setSp (s.cpu.sp + displacement e8)).setFlags (some false) (some false)
    (some (add8 s.cpu.sp.lo e8 false).half) (some (add8 s.cpu.sp.lo e8 false).cout))

end Sys2Proof.Machine
end

