-- ==== Sys2Proof/Machine/Alu8.lean ====
section
/-! DEFINITION. 8-bit arithmetic and logic (spec/43_alu8.md R350 to R361). -/

namespace Sys2Proof.Machine

/-- Write A and the flags of an addition or subtraction with result `r`: `Z n H C`. -/
def State.setSum (s : State) (n : Bool) (r : Sum8) : State :=
  (s.setA r.res).setFlags (some (decide (r.res = 0#8))) (some n) (some r.half) (some r.cout)

/-- Write A and the flags of a bitwise operation with result `v`: `Z 0 h 0`. -/
def State.setLogic (s : State) (h : Bool) (v : Byte) : State :=
  (s.setA v).setFlags (some (decide (v = 0#8))) (some false) (some h) (some false)

/-- The ALU operation `op` of A with `v`: R350 to R357. CP writes the flags of SUB and not A. -/
def State.aluOp (s : State) (op : AluOp) (v : Byte) : State :=
  match op with
  | .add => s.setSum false (add8 s.cpu.a v false)
  | .adc => s.setSum false (add8 s.cpu.a v s.flagC)
  | .sub => s.setSum true (sub8 s.cpu.a v false)
  | .sbc => s.setSum true (sub8 s.cpu.a v s.flagC)
  | .and => s.setLogic true (s.cpu.a &&& v)
  | .xor => s.setLogic false (s.cpu.a ^^^ v)
  | .or => s.setLogic false (s.cpu.a ||| v)
  | .cp =>
    let r := sub8 s.cpu.a v false
    s.setFlags (some (decide (r.res = 0#8))) (some true) (some r.half) (some r.cout)

/-- The forms `OP r` and `OP (HL)`. -/
def State.aluR8 (s : State) (op : AluOp) (r : R8) : Result := .next (s.aluOp op (s.readR8 r))

/-- The form `OP d8`. -/
def State.aluImm (s : State) (op : AluOp) (imm : Byte) : Result := .next (s.aluOp op imm)

/-- `INC r` and `INC (HL)`: R358, R359. C is unchanged. -/
def State.incR8 (s : State) (r : R8) : Result :=
  let sum := add8 (s.readR8 r) 0x01#8 false
  .next ((s.writeR8 r sum.res).setFlags (some (decide (sum.res = 0#8))) (some false) (some sum.half) none)

/-- `DEC r` and `DEC (HL)`: R360, R361. C is unchanged. -/
def State.decR8 (s : State) (r : R8) : Result :=
  let sum := sub8 (s.readR8 r) 0x01#8 false
  .next ((s.writeR8 r sum.res).setFlags (some (decide (sum.res = 0#8))) (some true) (some sum.half) none)

/-- INC B: R358. -/
def execIncB (s : State) : Result := s.incR8 .b

/-- DEC B: R360. -/
def execDecB (s : State) : Result := s.decR8 .b

/-- INC C: R358. -/
def execIncC (s : State) : Result := s.incR8 .c

/-- DEC C: R360. -/
def execDecC (s : State) : Result := s.decR8 .c

/-- INC D: R358. -/
def execIncD (s : State) : Result := s.incR8 .d

/-- DEC D: R360. -/
def execDecD (s : State) : Result := s.decR8 .d

/-- INC E: R358. -/
def execIncE (s : State) : Result := s.incR8 .e

/-- DEC E: R360. -/
def execDecE (s : State) : Result := s.decR8 .e

/-- INC H: R358. -/
def execIncH (s : State) : Result := s.incR8 .h

/-- DEC H: R360. -/
def execDecH (s : State) : Result := s.decR8 .h

/-- INC L: R358. -/
def execIncL (s : State) : Result := s.incR8 .l

/-- DEC L: R360. -/
def execDecL (s : State) : Result := s.decR8 .l

/-- INC (HL): R359. -/
def execIncMhl (s : State) : Result := s.incR8 .mHL

/-- DEC (HL): R361. -/
def execDecMhl (s : State) : Result := s.decR8 .mHL

/-- INC A: R358. -/
def execIncA (s : State) : Result := s.incR8 .a

/-- DEC A: R360. -/
def execDecA (s : State) : Result := s.decR8 .a

/-- ADD A,B: R350. -/
def execAddAB (s : State) : Result := s.aluR8 .add .b

/-- ADD A,C: R350. -/
def execAddAC (s : State) : Result := s.aluR8 .add .c

/-- ADD A,D: R350. -/
def execAddAD (s : State) : Result := s.aluR8 .add .d

/-- ADD A,E: R350. -/
def execAddAE (s : State) : Result := s.aluR8 .add .e

/-- ADD A,H: R350. -/
def execAddAH (s : State) : Result := s.aluR8 .add .h

/-- ADD A,L: R350. -/
def execAddAL (s : State) : Result := s.aluR8 .add .l

/-- ADD A,(HL): R350. -/
def execAddAMhl (s : State) : Result := s.aluR8 .add .mHL

/-- ADD A,A: R350. -/
def execAddAA (s : State) : Result := s.aluR8 .add .a

/-- ADC A,B: R351. -/
def execAdcAB (s : State) : Result := s.aluR8 .adc .b

/-- ADC A,C: R351. -/
def execAdcAC (s : State) : Result := s.aluR8 .adc .c

/-- ADC A,D: R351. -/
def execAdcAD (s : State) : Result := s.aluR8 .adc .d

/-- ADC A,E: R351. -/
def execAdcAE (s : State) : Result := s.aluR8 .adc .e

/-- ADC A,H: R351. -/
def execAdcAH (s : State) : Result := s.aluR8 .adc .h

/-- ADC A,L: R351. -/
def execAdcAL (s : State) : Result := s.aluR8 .adc .l

/-- ADC A,(HL): R351. -/
def execAdcAMhl (s : State) : Result := s.aluR8 .adc .mHL

/-- ADC A,A: R351. -/
def execAdcAA (s : State) : Result := s.aluR8 .adc .a

/-- SUB B: R352. -/
def execSubB (s : State) : Result := s.aluR8 .sub .b

/-- SUB C: R352. -/
def execSubC (s : State) : Result := s.aluR8 .sub .c

/-- SUB D: R352. -/
def execSubD (s : State) : Result := s.aluR8 .sub .d

/-- SUB E: R352. -/
def execSubE (s : State) : Result := s.aluR8 .sub .e

/-- SUB H: R352. -/
def execSubH (s : State) : Result := s.aluR8 .sub .h

/-- SUB L: R352. -/
def execSubL (s : State) : Result := s.aluR8 .sub .l

/-- SUB (HL): R352. -/
def execSubMhl (s : State) : Result := s.aluR8 .sub .mHL

/-- SUB A: R352. -/
def execSubA (s : State) : Result := s.aluR8 .sub .a

/-- SBC A,B: R353. -/
def execSbcAB (s : State) : Result := s.aluR8 .sbc .b

/-- SBC A,C: R353. -/
def execSbcAC (s : State) : Result := s.aluR8 .sbc .c

/-- SBC A,D: R353. -/
def execSbcAD (s : State) : Result := s.aluR8 .sbc .d

/-- SBC A,E: R353. -/
def execSbcAE (s : State) : Result := s.aluR8 .sbc .e

/-- SBC A,H: R353. -/
def execSbcAH (s : State) : Result := s.aluR8 .sbc .h

/-- SBC A,L: R353. -/
def execSbcAL (s : State) : Result := s.aluR8 .sbc .l

/-- SBC A,(HL): R353. -/
def execSbcAMhl (s : State) : Result := s.aluR8 .sbc .mHL

/-- SBC A,A: R353. -/
def execSbcAA (s : State) : Result := s.aluR8 .sbc .a

/-- AND B: R354. -/
def execAndB (s : State) : Result := s.aluR8 .and .b

/-- AND C: R354. -/
def execAndC (s : State) : Result := s.aluR8 .and .c

/-- AND D: R354. -/
def execAndD (s : State) : Result := s.aluR8 .and .d

/-- AND E: R354. -/
def execAndE (s : State) : Result := s.aluR8 .and .e

/-- AND H: R354. -/
def execAndH (s : State) : Result := s.aluR8 .and .h

/-- AND L: R354. -/
def execAndL (s : State) : Result := s.aluR8 .and .l

/-- AND (HL): R354. -/
def execAndMhl (s : State) : Result := s.aluR8 .and .mHL

/-- AND A: R354. -/
def execAndA (s : State) : Result := s.aluR8 .and .a

/-- XOR B: R355. -/
def execXorB (s : State) : Result := s.aluR8 .xor .b

/-- XOR C: R355. -/
def execXorC (s : State) : Result := s.aluR8 .xor .c

/-- XOR D: R355. -/
def execXorD (s : State) : Result := s.aluR8 .xor .d

/-- XOR E: R355. -/
def execXorE (s : State) : Result := s.aluR8 .xor .e

/-- XOR H: R355. -/
def execXorH (s : State) : Result := s.aluR8 .xor .h

/-- XOR L: R355. -/
def execXorL (s : State) : Result := s.aluR8 .xor .l

/-- XOR (HL): R355. -/
def execXorMhl (s : State) : Result := s.aluR8 .xor .mHL

/-- XOR A: R355. -/
def execXorA (s : State) : Result := s.aluR8 .xor .a

/-- OR B: R356. -/
def execOrB (s : State) : Result := s.aluR8 .or .b

/-- OR C: R356. -/
def execOrC (s : State) : Result := s.aluR8 .or .c

/-- OR D: R356. -/
def execOrD (s : State) : Result := s.aluR8 .or .d

/-- OR E: R356. -/
def execOrE (s : State) : Result := s.aluR8 .or .e

/-- OR H: R356. -/
def execOrH (s : State) : Result := s.aluR8 .or .h

/-- OR L: R356. -/
def execOrL (s : State) : Result := s.aluR8 .or .l

/-- OR (HL): R356. -/
def execOrMhl (s : State) : Result := s.aluR8 .or .mHL

/-- OR A: R356. -/
def execOrA (s : State) : Result := s.aluR8 .or .a

/-- CP B: R357. -/
def execCpB (s : State) : Result := s.aluR8 .cp .b

/-- CP C: R357. -/
def execCpC (s : State) : Result := s.aluR8 .cp .c

/-- CP D: R357. -/
def execCpD (s : State) : Result := s.aluR8 .cp .d

/-- CP E: R357. -/
def execCpE (s : State) : Result := s.aluR8 .cp .e

/-- CP H: R357. -/
def execCpH (s : State) : Result := s.aluR8 .cp .h

/-- CP L: R357. -/
def execCpL (s : State) : Result := s.aluR8 .cp .l

/-- CP (HL): R357. -/
def execCpMhl (s : State) : Result := s.aluR8 .cp .mHL

/-- CP A: R357. -/
def execCpA (s : State) : Result := s.aluR8 .cp .a

/-- ADD A,d8: R350. -/
def execAddAD8 (d8 : Byte) (s : State) : Result := s.aluImm .add d8

/-- ADC A,d8: R351. -/
def execAdcAD8 (d8 : Byte) (s : State) : Result := s.aluImm .adc d8

/-- SUB d8: R352. -/
def execSubD8 (d8 : Byte) (s : State) : Result := s.aluImm .sub d8

/-- SBC A,d8: R353. -/
def execSbcAD8 (d8 : Byte) (s : State) : Result := s.aluImm .sbc d8

/-- AND d8: R354. -/
def execAndD8 (d8 : Byte) (s : State) : Result := s.aluImm .and d8

/-- XOR d8: R355. -/
def execXorD8 (d8 : Byte) (s : State) : Result := s.aluImm .xor d8

/-- OR d8: R356. -/
def execOrD8 (d8 : Byte) (s : State) : Result := s.aluImm .or d8

/-- CP d8: R357. -/
def execCpD8 (d8 : Byte) (s : State) : Result := s.aluImm .cp d8

end Sys2Proof.Machine
end

