-- ==== Sys2Proof/Machine/Bitops.lean ====
section
/-! DEFINITION. The CB-prefixed rotates, shifts and bit operations (spec/48_cb_bitops.md R510 to R520). -/

namespace Sys2Proof.Machine

/-- The shared frame of R510 to R517. -/
def State.rotateR8 (s : State) (op : RotOp) (r : R8) : Result :=
  let p := rotate op (s.readR8 r) s.flagC
  .next ((s.writeR8 r p.1).setFlags (some (decide (p.1 = 0#8))) (some false) (some false) (some p.2))

/-- `BIT b,r`: R518. Nothing is written back; C is unchanged. -/
def State.testBit (s : State) (b : BitVec 3) (r : R8) : Result :=
  .next (s.setFlags (some (!(s.readR8 r).getLsbD b.toNat)) (some false) (some true) none)

/-- `RES b,r`: R519. -/
def State.resetBit (s : State) (b : BitVec 3) (r : R8) : Result :=
  .next (s.writeR8 r (s.readR8 r &&& ~~~(1#8 <<< b.toNat)))

/-- `SET b,r`: R520. -/
def State.setBit (s : State) (b : BitVec 3) (r : R8) : Result :=
  .next (s.writeR8 r (s.readR8 r ||| (1#8 <<< b.toNat)))

/-- The 8-bit operand of a code (spec/30_encoding.md R182). -/
def r8OfCode (c : BitVec 3) : R8 := [R8.b, .c, .d, .e, .h, .l, .mHL, .a].getD c.toNat .b

/-- The rotate, shift or swap of a code (spec/30_encoding.md R188). -/
def rotOfCode (c : BitVec 3) : RotOp := [RotOp.rlc, .rrc, .rl, .rr, .sla, .sra, .swap, .srl].getD c.toNat .rlc

/-- The instruction of a CB-opcode by its fields x, y, z (spec/30_encoding.md R181, R204), for the meaning of the
prefix itself. -/
def State.runCB (s : State) (op : Byte) : Result :=
  let y := op.extractLsb' 3 3
  let r := r8OfCode (op.extractLsb' 0 3)
  match (op.extractLsb' 6 2).toNat with
  | 0 => s.rotateR8 (rotOfCode y) r
  | 1 => s.testBit y r
  | 2 => s.resetBit y r
  | _ => s.setBit y r

/-- RLC B: R510. -/
def execRlcB (s : State) : Result := s.rotateR8 .rlc .b

/-- RLC C: R510. -/
def execRlcC (s : State) : Result := s.rotateR8 .rlc .c

/-- RLC D: R510. -/
def execRlcD (s : State) : Result := s.rotateR8 .rlc .d

/-- RLC E: R510. -/
def execRlcE (s : State) : Result := s.rotateR8 .rlc .e

/-- RLC H: R510. -/
def execRlcH (s : State) : Result := s.rotateR8 .rlc .h

/-- RLC L: R510. -/
def execRlcL (s : State) : Result := s.rotateR8 .rlc .l

/-- RLC (HL): R510. -/
def execRlcMhl (s : State) : Result := s.rotateR8 .rlc .mHL

/-- RLC A: R510. -/
def execRlcA (s : State) : Result := s.rotateR8 .rlc .a

/-- RRC B: R511. -/
def execRrcB (s : State) : Result := s.rotateR8 .rrc .b

/-- RRC C: R511. -/
def execRrcC (s : State) : Result := s.rotateR8 .rrc .c

/-- RRC D: R511. -/
def execRrcD (s : State) : Result := s.rotateR8 .rrc .d

/-- RRC E: R511. -/
def execRrcE (s : State) : Result := s.rotateR8 .rrc .e

/-- RRC H: R511. -/
def execRrcH (s : State) : Result := s.rotateR8 .rrc .h

/-- RRC L: R511. -/
def execRrcL (s : State) : Result := s.rotateR8 .rrc .l

/-- RRC (HL): R511. -/
def execRrcMhl (s : State) : Result := s.rotateR8 .rrc .mHL

/-- RRC A: R511. -/
def execRrcA (s : State) : Result := s.rotateR8 .rrc .a

/-- RL B: R512. -/
def execRlB (s : State) : Result := s.rotateR8 .rl .b

/-- RL C: R512. -/
def execRlC (s : State) : Result := s.rotateR8 .rl .c

/-- RL D: R512. -/
def execRlD (s : State) : Result := s.rotateR8 .rl .d

/-- RL E: R512. -/
def execRlE (s : State) : Result := s.rotateR8 .rl .e

/-- RL H: R512. -/
def execRlH (s : State) : Result := s.rotateR8 .rl .h

/-- RL L: R512. -/
def execRlL (s : State) : Result := s.rotateR8 .rl .l

/-- RL (HL): R512. -/
def execRlMhl (s : State) : Result := s.rotateR8 .rl .mHL

/-- RL A: R512. -/
def execRlA (s : State) : Result := s.rotateR8 .rl .a

/-- RR B: R513. -/
def execRrB (s : State) : Result := s.rotateR8 .rr .b

/-- RR C: R513. -/
def execRrC (s : State) : Result := s.rotateR8 .rr .c

/-- RR D: R513. -/
def execRrD (s : State) : Result := s.rotateR8 .rr .d

/-- RR E: R513. -/
def execRrE (s : State) : Result := s.rotateR8 .rr .e

/-- RR H: R513. -/
def execRrH (s : State) : Result := s.rotateR8 .rr .h

/-- RR L: R513. -/
def execRrL (s : State) : Result := s.rotateR8 .rr .l

/-- RR (HL): R513. -/
def execRrMhl (s : State) : Result := s.rotateR8 .rr .mHL

/-- RR A: R513. -/
def execRrA (s : State) : Result := s.rotateR8 .rr .a

/-- SLA B: R514. -/
def execSlaB (s : State) : Result := s.rotateR8 .sla .b

/-- SLA C: R514. -/
def execSlaC (s : State) : Result := s.rotateR8 .sla .c

/-- SLA D: R514. -/
def execSlaD (s : State) : Result := s.rotateR8 .sla .d

/-- SLA E: R514. -/
def execSlaE (s : State) : Result := s.rotateR8 .sla .e

/-- SLA H: R514. -/
def execSlaH (s : State) : Result := s.rotateR8 .sla .h

/-- SLA L: R514. -/
def execSlaL (s : State) : Result := s.rotateR8 .sla .l

/-- SLA (HL): R514. -/
def execSlaMhl (s : State) : Result := s.rotateR8 .sla .mHL

/-- SLA A: R514. -/
def execSlaA (s : State) : Result := s.rotateR8 .sla .a

/-- SRA B: R515. -/
def execSraB (s : State) : Result := s.rotateR8 .sra .b

/-- SRA C: R515. -/
def execSraC (s : State) : Result := s.rotateR8 .sra .c

/-- SRA D: R515. -/
def execSraD (s : State) : Result := s.rotateR8 .sra .d

/-- SRA E: R515. -/
def execSraE (s : State) : Result := s.rotateR8 .sra .e

/-- SRA H: R515. -/
def execSraH (s : State) : Result := s.rotateR8 .sra .h

/-- SRA L: R515. -/
def execSraL (s : State) : Result := s.rotateR8 .sra .l

/-- SRA (HL): R515. -/
def execSraMhl (s : State) : Result := s.rotateR8 .sra .mHL

/-- SRA A: R515. -/
def execSraA (s : State) : Result := s.rotateR8 .sra .a

/-- SWAP B: R516. -/
def execSwapB (s : State) : Result := s.rotateR8 .swap .b

/-- SWAP C: R516. -/
def execSwapC (s : State) : Result := s.rotateR8 .swap .c

/-- SWAP D: R516. -/
def execSwapD (s : State) : Result := s.rotateR8 .swap .d

/-- SWAP E: R516. -/
def execSwapE (s : State) : Result := s.rotateR8 .swap .e

/-- SWAP H: R516. -/
def execSwapH (s : State) : Result := s.rotateR8 .swap .h

/-- SWAP L: R516. -/
def execSwapL (s : State) : Result := s.rotateR8 .swap .l

/-- SWAP (HL): R516. -/
def execSwapMhl (s : State) : Result := s.rotateR8 .swap .mHL

/-- SWAP A: R516. -/
def execSwapA (s : State) : Result := s.rotateR8 .swap .a

/-- SRL B: R517. -/
def execSrlB (s : State) : Result := s.rotateR8 .srl .b

/-- SRL C: R517. -/
def execSrlC (s : State) : Result := s.rotateR8 .srl .c

/-- SRL D: R517. -/
def execSrlD (s : State) : Result := s.rotateR8 .srl .d

/-- SRL E: R517. -/
def execSrlE (s : State) : Result := s.rotateR8 .srl .e

/-- SRL H: R517. -/
def execSrlH (s : State) : Result := s.rotateR8 .srl .h

/-- SRL L: R517. -/
def execSrlL (s : State) : Result := s.rotateR8 .srl .l

/-- SRL (HL): R517. -/
def execSrlMhl (s : State) : Result := s.rotateR8 .srl .mHL

/-- SRL A: R517. -/
def execSrlA (s : State) : Result := s.rotateR8 .srl .a

/-- BIT b,B: R518. -/
def execBitB (b : BitVec 3) (s : State) : Result := s.testBit b .b

/-- BIT b,C: R518. -/
def execBitC (b : BitVec 3) (s : State) : Result := s.testBit b .c

/-- BIT b,D: R518. -/
def execBitD (b : BitVec 3) (s : State) : Result := s.testBit b .d

/-- BIT b,E: R518. -/
def execBitE (b : BitVec 3) (s : State) : Result := s.testBit b .e

/-- BIT b,H: R518. -/
def execBitH (b : BitVec 3) (s : State) : Result := s.testBit b .h

/-- BIT b,L: R518. -/
def execBitL (b : BitVec 3) (s : State) : Result := s.testBit b .l

/-- BIT b,(HL): R518. -/
def execBitMhl (b : BitVec 3) (s : State) : Result := s.testBit b .mHL

/-- BIT b,A: R518. -/
def execBitA (b : BitVec 3) (s : State) : Result := s.testBit b .a

/-- RES b,B: R519. -/
def execResB (b : BitVec 3) (s : State) : Result := s.resetBit b .b

/-- RES b,C: R519. -/
def execResC (b : BitVec 3) (s : State) : Result := s.resetBit b .c

/-- RES b,D: R519. -/
def execResD (b : BitVec 3) (s : State) : Result := s.resetBit b .d

/-- RES b,E: R519. -/
def execResE (b : BitVec 3) (s : State) : Result := s.resetBit b .e

/-- RES b,H: R519. -/
def execResH (b : BitVec 3) (s : State) : Result := s.resetBit b .h

/-- RES b,L: R519. -/
def execResL (b : BitVec 3) (s : State) : Result := s.resetBit b .l

/-- RES b,(HL): R519. -/
def execResMhl (b : BitVec 3) (s : State) : Result := s.resetBit b .mHL

/-- RES b,A: R519. -/
def execResA (b : BitVec 3) (s : State) : Result := s.resetBit b .a

/-- SET b,B: R520. -/
def execSetB (b : BitVec 3) (s : State) : Result := s.setBit b .b

/-- SET b,C: R520. -/
def execSetC (b : BitVec 3) (s : State) : Result := s.setBit b .c

/-- SET b,D: R520. -/
def execSetD (b : BitVec 3) (s : State) : Result := s.setBit b .d

/-- SET b,E: R520. -/
def execSetE (b : BitVec 3) (s : State) : Result := s.setBit b .e

/-- SET b,H: R520. -/
def execSetH (b : BitVec 3) (s : State) : Result := s.setBit b .h

/-- SET b,L: R520. -/
def execSetL (b : BitVec 3) (s : State) : Result := s.setBit b .l

/-- SET b,(HL): R520. -/
def execSetMhl (b : BitVec 3) (s : State) : Result := s.setBit b .mHL

/-- SET b,A: R520. -/
def execSetA (b : BitVec 3) (s : State) : Result := s.setBit b .a

end Sys2Proof.Machine
end

