-- ==== Sys2Proof/Machine/Control.lean ====
section
/-! DEFINITION. Jumps, calls, returns and restarts (spec/46_control.md R440 to R451). PC is already past the
instruction when a meaning runs. A conditional meaning returns `taken` in the step latch (spec/40_engine.md
R243, R244). -/

namespace Sys2Proof.Machine

/-- A relative jump: `PC <- PC + sext_16(imm)`. -/
def State.jumpRelative (s : State) (e8 : Byte) : State := s.setPc (s.cpu.pc + displacement e8)

/-- A call: `Push16(PC, label); PC <- target`. -/
def State.callTo (s : State) (label : WriteLabel) (target : Word) : State := (s.push16 label s.cpu.pc).setPc target

/-- A return: `PC <- Pop16()`. -/
def State.returnPop (s : State) : State := s.dropTop.setPc s.stackTop

/-- `JP cc,a16`: R441. -/
def State.jumpIf (s : State) (cc : Cond) (a16 : Word) : Result :=
  .next (if s.cond cc then (s.setPc a16).setTaken true else s.setTaken false)

/-- `JR cc,e8`: R444. -/
def State.jumpRelativeIf (s : State) (cc : Cond) (e8 : Byte) : Result :=
  .next (if s.cond cc then (s.jumpRelative e8).setTaken true else s.setTaken false)

/-- `CALL cc,a16`: R446. -/
def State.callIf (s : State) (cc : Cond) (a16 : Word) : Result :=
  .next (if s.cond cc then (s.callTo .call a16).setTaken true else s.setTaken false)

/-- `RET cc`: R448. -/
def State.returnIf (s : State) (cc : Cond) : Result :=
  .next (if s.cond cc then s.returnPop.setTaken true else s.setTaken false)

/-- `RST t`: R450; the target is `zext_16(t) * 8` (spec/30_encoding.md R190). -/
def State.restart (s : State) (t : BitVec 3) : Result := .next (s.callTo .rst (t.zeroExtend 16 * 8#16))

/-- JR e8: R443. -/
def execJrE8 (e8 : Byte) (s : State) : Result := .next (s.jumpRelative e8)

/-- JR NZ,e8: R444. -/
def execJrNzE8 (e8 : Byte) (s : State) : Result := s.jumpRelativeIf .nz e8

/-- JR Z,e8: R444. -/
def execJrZE8 (e8 : Byte) (s : State) : Result := s.jumpRelativeIf .z e8

/-- JR NC,e8: R444. -/
def execJrNcE8 (e8 : Byte) (s : State) : Result := s.jumpRelativeIf .nc e8

/-- JR C,e8: R444. -/
def execJrCE8 (e8 : Byte) (s : State) : Result := s.jumpRelativeIf .c e8

/-- RET NZ: R448. -/
def execRetNz (s : State) : Result := s.returnIf .nz

/-- JP NZ,a16: R441. -/
def execJpNzA16 (a16 : Word) (s : State) : Result := s.jumpIf .nz a16

/-- JP a16: R440. -/
def execJpA16 (a16 : Word) (s : State) : Result := .next (s.setPc a16)

/-- CALL NZ,a16: R446. -/
def execCallNzA16 (a16 : Word) (s : State) : Result := s.callIf .nz a16

/-- RST 00H: R450. -/
def execRst00h (s : State) : Result := s.restart 0#3

/-- RET Z: R448. -/
def execRetZ (s : State) : Result := s.returnIf .z

/-- RET: R447. -/
def execRet (s : State) : Result := .next s.returnPop

/-- JP Z,a16: R441. -/
def execJpZA16 (a16 : Word) (s : State) : Result := s.jumpIf .z a16

/-- CALL Z,a16: R446. -/
def execCallZA16 (a16 : Word) (s : State) : Result := s.callIf .z a16

/-- CALL a16: R445. -/
def execCallA16 (a16 : Word) (s : State) : Result := .next (s.callTo .call a16)

/-- RST 08H: R450. -/
def execRst08h (s : State) : Result := s.restart 1#3

/-- RET NC: R448. -/
def execRetNc (s : State) : Result := s.returnIf .nc

/-- JP NC,a16: R441. -/
def execJpNcA16 (a16 : Word) (s : State) : Result := s.jumpIf .nc a16

/-- CALL NC,a16: R446. -/
def execCallNcA16 (a16 : Word) (s : State) : Result := s.callIf .nc a16

/-- RST 10H: R450. -/
def execRst10h (s : State) : Result := s.restart 2#3

/-- RET C: R448. -/
def execRetC (s : State) : Result := s.returnIf .c

/-- RETI: R449. -/
def execReti (s : State) : Result := .next s.returnFromInterrupt

/-- JP C,a16: R441. -/
def execJpCA16 (a16 : Word) (s : State) : Result := s.jumpIf .c a16

/-- CALL C,a16: R446. -/
def execCallCA16 (a16 : Word) (s : State) : Result := s.callIf .c a16

/-- RST 18H: R450. -/
def execRst18h (s : State) : Result := s.restart 3#3

/-- RST 20H: R450. -/
def execRst20h (s : State) : Result := s.restart 4#3

/-- JP HL: R442. -/
def execJpHl (s : State) : Result := .next (s.setPc s.cpu.hl)

/-- RST 28H: R450. -/
def execRst28h (s : State) : Result := s.restart 5#3

/-- RST 30H: R450. -/
def execRst30h (s : State) : Result := s.restart 6#3

/-- RST 38H: R450. -/
def execRst38h (s : State) : Result := s.restart 7#3

end Sys2Proof.Machine
end

