-- ==== Sys2Proof/Machine/Load16.lean ====
section
/-! DEFINITION. The 16-bit loads and the stack (spec/42_load16_stack.md R320 to R326). -/

namespace Sys2Proof.Machine

/-- `R16[rr] <- imm`: R320. -/
def State.loadImmR16 (s : State) (rr : R16) (imm : Word) : Result := .next (s.writeR16 rr imm)

/-- `Push16(R16STK[rr], "PUSH")`: R324. -/
def State.pushR16 (s : State) (rr : R16Stk) : Result := .next (s.push16 .push (s.readStk rr))

/-- `R16STK[rr] <- Pop16()`: R325; R326 for AF, whose F[3:0] stays 0. -/
def State.popR16 (s : State) (rr : R16Stk) : Result := .next (s.dropTop.writeStk rr s.stackTop)

/-- LD BC,d16: R320. -/
def execLdBcD16 (d16 : Word) (s : State) : Result := s.loadImmR16 .bc d16

/-- LD (a16),SP: R321. -/
def execLdMa16Sp (a16 : Word) (s : State) : Result := .next (s.memWrite .ma16 a16 (wordBytes s.cpu.sp))

/-- LD DE,d16: R320. -/
def execLdDeD16 (d16 : Word) (s : State) : Result := s.loadImmR16 .de d16

/-- LD HL,d16: R320. -/
def execLdHlD16 (d16 : Word) (s : State) : Result := s.loadImmR16 .hl d16

/-- LD SP,d16: R320. -/
def execLdSpD16 (d16 : Word) (s : State) : Result := s.loadImmR16 .sp d16

/-- POP BC: R325. -/
def execPopBc (s : State) : Result := s.popR16 .bc

/-- PUSH BC: R324. -/
def execPushBc (s : State) : Result := s.pushR16 .bc

/-- POP DE: R325. -/
def execPopDe (s : State) : Result := s.popR16 .de

/-- PUSH DE: R324. -/
def execPushDe (s : State) : Result := s.pushR16 .de

/-- POP HL: R325. -/
def execPopHl (s : State) : Result := s.popR16 .hl

/-- PUSH HL: R324. -/
def execPushHl (s : State) : Result := s.pushR16 .hl

/-- POP AF: R326. -/
def execPopAf (s : State) : Result := s.popR16 .af

/-- PUSH AF: R324. -/
def execPushAf (s : State) : Result := s.pushR16 .af

/-- LD HL,SP+e8: R323. -/
def execLdHlSpE8 (e8 : Byte) (s : State) : Result :=
  .next ((s.setHl (s.cpu.sp + displacement e8)).setFlags (some false) (some false)
    (some (add8 s.cpu.sp.lo e8 false).half) (some (add8 s.cpu.sp.lo e8 false).cout))

/-- LD SP,HL: R322. -/
def execLdSpHl (s : State) : Result := .next (s.setSp s.cpu.hl)

end Sys2Proof.Machine
end

