-- ==== Sys2Proof/Machine/Load8.lean ====
section
/-! DEFINITION. The 8-bit loads (spec/41_load8.md R280 to R298). No flag is written. PC is already past the
instruction when a meaning runs (spec/40_engine.md R243). -/

namespace Sys2Proof.Machine

/-- `WriteR8(r, ReadR8(r'))`: R280, R282, R283. -/
def State.copyR8 (s : State) (r r' : R8) : Result := .next (s.writeR8 r (s.readR8 r'))

/-- `WriteR8(r, imm)`: R281; R284 for (HL). -/
def State.loadImmR8 (s : State) (r : R8) (imm : Byte) : Result := .next (s.writeR8 r imm)

/-- `A <- MemRead(addr, 1)`. -/
def State.loadA (s : State) (addr : Word) : State := s.setA (s.memRead addr)

/-- `MemWrite(addr, 1, A, label)`. -/
def State.storeA (s : State) (label : WriteLabel) (addr : Word) : State := s.memWrite label addr [s.cpu.a]

/-- `A <- MemRead(p, 1)`, then the step of HL: R285, R286, R295, R296. -/
def State.loadAPointer (s : State) (p : R16Mem) : Result := .next ((s.loadA (s.pointer p)).stepPointer p)

/-- `MemWrite(p, 1, A, label)`, then the step of HL: R287, R288, R297, R298. -/
def State.storeAPointer (s : State) (p : R16Mem) : Result :=
  .next ((s.storeA (pointerLabel p) (s.pointer p)).stepPointer p)

/-- LD (BC),A: R287. -/
def execLdMbcA (s : State) : Result := s.storeAPointer .bc

/-- LD B,d8: R281. -/
def execLdBD8 (d8 : Byte) (s : State) : Result := s.loadImmR8 .b d8

/-- LD A,(BC): R285. -/
def execLdAMbc (s : State) : Result := s.loadAPointer .bc

/-- LD C,d8: R281. -/
def execLdCD8 (d8 : Byte) (s : State) : Result := s.loadImmR8 .c d8

/-- LD (DE),A: R288. -/
def execLdMdeA (s : State) : Result := s.storeAPointer .de

/-- LD D,d8: R281. -/
def execLdDD8 (d8 : Byte) (s : State) : Result := s.loadImmR8 .d d8

/-- LD A,(DE): R286. -/
def execLdAMde (s : State) : Result := s.loadAPointer .de

/-- LD E,d8: R281. -/
def execLdED8 (d8 : Byte) (s : State) : Result := s.loadImmR8 .e d8

/-- LD (HL+),A: R297. -/
def execLdMhlIncA (s : State) : Result := s.storeAPointer .hlInc

/-- LD H,d8: R281. -/
def execLdHD8 (d8 : Byte) (s : State) : Result := s.loadImmR8 .h d8

/-- LD A,(HL+): R295. -/
def execLdAMhlInc (s : State) : Result := s.loadAPointer .hlInc

/-- LD L,d8: R281. -/
def execLdLD8 (d8 : Byte) (s : State) : Result := s.loadImmR8 .l d8

/-- LD (HL-),A: R298. -/
def execLdMhlDecA (s : State) : Result := s.storeAPointer .hlDec

/-- LD (HL),d8: R284. -/
def execLdMhlD8 (d8 : Byte) (s : State) : Result := s.loadImmR8 .mHL d8

/-- LD A,(HL-): R296. -/
def execLdAMhlDec (s : State) : Result := s.loadAPointer .hlDec

/-- LD A,d8: R281. -/
def execLdAD8 (d8 : Byte) (s : State) : Result := s.loadImmR8 .a d8

/-- LD B,B: R280. -/
def execLdBB (s : State) : Result := s.copyR8 .b .b

/-- LD B,C: R280. -/
def execLdBC (s : State) : Result := s.copyR8 .b .c

/-- LD B,D: R280. -/
def execLdBD (s : State) : Result := s.copyR8 .b .d

/-- LD B,E: R280. -/
def execLdBE (s : State) : Result := s.copyR8 .b .e

/-- LD B,H: R280. -/
def execLdBH (s : State) : Result := s.copyR8 .b .h

/-- LD B,L: R280. -/
def execLdBL (s : State) : Result := s.copyR8 .b .l

/-- LD B,(HL): R282. -/
def execLdBMhl (s : State) : Result := s.copyR8 .b .mHL

/-- LD B,A: R280. -/
def execLdBA (s : State) : Result := s.copyR8 .b .a

/-- LD C,B: R280. -/
def execLdCB (s : State) : Result := s.copyR8 .c .b

/-- LD C,C: R280. -/
def execLdCC (s : State) : Result := s.copyR8 .c .c

/-- LD C,D: R280. -/
def execLdCD (s : State) : Result := s.copyR8 .c .d

/-- LD C,E: R280. -/
def execLdCE (s : State) : Result := s.copyR8 .c .e

/-- LD C,H: R280. -/
def execLdCH (s : State) : Result := s.copyR8 .c .h

/-- LD C,L: R280. -/
def execLdCL (s : State) : Result := s.copyR8 .c .l

/-- LD C,(HL): R282. -/
def execLdCMhl (s : State) : Result := s.copyR8 .c .mHL

/-- LD C,A: R280. -/
def execLdCA (s : State) : Result := s.copyR8 .c .a

/-- LD D,B: R280. -/
def execLdDB (s : State) : Result := s.copyR8 .d .b

/-- LD D,C: R280. -/
def execLdDC (s : State) : Result := s.copyR8 .d .c

/-- LD D,D: R280. -/
def execLdDD (s : State) : Result := s.copyR8 .d .d

/-- LD D,E: R280. -/
def execLdDE (s : State) : Result := s.copyR8 .d .e

/-- LD D,H: R280. -/
def execLdDH (s : State) : Result := s.copyR8 .d .h

/-- LD D,L: R280. -/
def execLdDL (s : State) : Result := s.copyR8 .d .l

/-- LD D,(HL): R282. -/
def execLdDMhl (s : State) : Result := s.copyR8 .d .mHL

/-- LD D,A: R280. -/
def execLdDA (s : State) : Result := s.copyR8 .d .a

/-- LD E,B: R280. -/
def execLdEB (s : State) : Result := s.copyR8 .e .b

/-- LD E,C: R280. -/
def execLdEC (s : State) : Result := s.copyR8 .e .c

/-- LD E,D: R280. -/
def execLdED (s : State) : Result := s.copyR8 .e .d

/-- LD E,E: R280. -/
def execLdEE (s : State) : Result := s.copyR8 .e .e

/-- LD E,H: R280. -/
def execLdEH (s : State) : Result := s.copyR8 .e .h

/-- LD E,L: R280. -/
def execLdEL (s : State) : Result := s.copyR8 .e .l

/-- LD E,(HL): R282. -/
def execLdEMhl (s : State) : Result := s.copyR8 .e .mHL

/-- LD E,A: R280. -/
def execLdEA (s : State) : Result := s.copyR8 .e .a

/-- LD H,B: R280. -/
def execLdHB (s : State) : Result := s.copyR8 .h .b

/-- LD H,C: R280. -/
def execLdHC (s : State) : Result := s.copyR8 .h .c

/-- LD H,D: R280. -/
def execLdHD (s : State) : Result := s.copyR8 .h .d

/-- LD H,E: R280. -/
def execLdHE (s : State) : Result := s.copyR8 .h .e

/-- LD H,H: R280. -/
def execLdHH (s : State) : Result := s.copyR8 .h .h

/-- LD H,L: R280. -/
def execLdHL (s : State) : Result := s.copyR8 .h .l

/-- LD H,(HL): R282. -/
def execLdHMhl (s : State) : Result := s.copyR8 .h .mHL

/-- LD H,A: R280. -/
def execLdHA (s : State) : Result := s.copyR8 .h .a

/-- LD L,B: R280. -/
def execLdLB (s : State) : Result := s.copyR8 .l .b

/-- LD L,C: R280. -/
def execLdLC (s : State) : Result := s.copyR8 .l .c

/-- LD L,D: R280. -/
def execLdLD (s : State) : Result := s.copyR8 .l .d

/-- LD L,E: R280. -/
def execLdLE (s : State) : Result := s.copyR8 .l .e

/-- LD L,H: R280. -/
def execLdLH (s : State) : Result := s.copyR8 .l .h

/-- LD L,L: R280. -/
def execLdLL (s : State) : Result := s.copyR8 .l .l

/-- LD L,(HL): R282. -/
def execLdLMhl (s : State) : Result := s.copyR8 .l .mHL

/-- LD L,A: R280. -/
def execLdLA (s : State) : Result := s.copyR8 .l .a

/-- LD (HL),B: R283. -/
def execLdMhlB (s : State) : Result := s.copyR8 .mHL .b

/-- LD (HL),C: R283. -/
def execLdMhlC (s : State) : Result := s.copyR8 .mHL .c

/-- LD (HL),D: R283. -/
def execLdMhlD (s : State) : Result := s.copyR8 .mHL .d

/-- LD (HL),E: R283. -/
def execLdMhlE (s : State) : Result := s.copyR8 .mHL .e

/-- LD (HL),H: R283. -/
def execLdMhlH (s : State) : Result := s.copyR8 .mHL .h

/-- LD (HL),L: R283. -/
def execLdMhlL (s : State) : Result := s.copyR8 .mHL .l

/-- LD (HL),A: R283. -/
def execLdMhlA (s : State) : Result := s.copyR8 .mHL .a

/-- LD A,B: R280. -/
def execLdAB (s : State) : Result := s.copyR8 .a .b

/-- LD A,C: R280. -/
def execLdAC (s : State) : Result := s.copyR8 .a .c

/-- LD A,D: R280. -/
def execLdAD (s : State) : Result := s.copyR8 .a .d

/-- LD A,E: R280. -/
def execLdAE (s : State) : Result := s.copyR8 .a .e

/-- LD A,H: R280. -/
def execLdAH (s : State) : Result := s.copyR8 .a .h

/-- LD A,L: R280. -/
def execLdAL (s : State) : Result := s.copyR8 .a .l

/-- LD A,(HL): R282. -/
def execLdAMhl (s : State) : Result := s.copyR8 .a .mHL

/-- LD A,A: R280. -/
def execLdAA (s : State) : Result := s.copyR8 .a .a

/-- LDH (a8),A: R292. -/
def execLdhMa8A (a8 : Byte) (s : State) : Result := .next (s.storeA .ma8 (highPage a8))

/-- LD (C),A: R294. -/
def execLdMcA (s : State) : Result := .next (s.storeA .mC (highPage s.cpu.bc.lo))

/-- LD (a16),A: R290. -/
def execLdMa16A (a16 : Word) (s : State) : Result := .next (s.storeA .ma16 a16)

/-- LDH A,(a8): R291. -/
def execLdhAMa8 (a8 : Byte) (s : State) : Result := .next (s.loadA (highPage a8))

/-- LD A,(C): R293. -/
def execLdAMc (s : State) : Result := .next (s.loadA (highPage s.cpu.bc.lo))

/-- LD A,(a16): R289. -/
def execLdAMa16 (a16 : Word) (s : State) : Result := .next (s.loadA a16)

end Sys2Proof.Machine
end

