-- ==== Sys2Proof/Machine/System.lean ====
section
/-! DEFINITION. HALT, STOP, DI, EI, the invalid opcodes and the CB prefix (spec/47_system.md R480 to R485). -/

namespace Sys2Proof.Machine

/-- STOP: R481. The byte is ignored. -/
def execStop (_ignored : Byte) (s : State) : Result := .next (s.setStopped true)

/-- HALT: R480. PENDING = 0 halts; else with IME the next step
dispatches, and without it HALT_BUG decides. -/
def execHalt (s : State) : Result :=
  match s.lowestPending with
  | none => .next (s.setHalted true)
  | some _ =>
    if s.cpu.ime then .next s
    else if s.params.haltBug then .next (s.setHaltBugArmed true)
    else .next s

/-- PREFIX CB: R485. It has no effect of its own: the next byte is fetched as the
opcode of the CB-prefixed table and that instruction runs (spec/40_engine.md R238). -/
def execPrefixCb (s : State) : Result :=
  let op := s.fetch8.1
  (s.fetch8.2.noteOpcode true op).runCB op

/-- INVALID 0xD3: R484. No instruction: the fault UnknownOpcode. -/
def execInvalidD3 (s : State) : Result := s.raiseUnknownOpcode 0xD3#8

/-- INVALID 0xDB: R484. No instruction: the fault UnknownOpcode. -/
def execInvalidDB (s : State) : Result := s.raiseUnknownOpcode 0xDB#8

/-- INVALID 0xDD: R484. No instruction: the fault UnknownOpcode. -/
def execInvalidDD (s : State) : Result := s.raiseUnknownOpcode 0xDD#8

/-- INVALID 0xE3: R484. No instruction: the fault UnknownOpcode. -/
def execInvalidE3 (s : State) : Result := s.raiseUnknownOpcode 0xE3#8

/-- INVALID 0xE4: R484. No instruction: the fault UnknownOpcode. -/
def execInvalidE4 (s : State) : Result := s.raiseUnknownOpcode 0xE4#8

/-- INVALID 0xEB: R484. No instruction: the fault UnknownOpcode. -/
def execInvalidEB (s : State) : Result := s.raiseUnknownOpcode 0xEB#8

/-- INVALID 0xEC: R484. No instruction: the fault UnknownOpcode. -/
def execInvalidEC (s : State) : Result := s.raiseUnknownOpcode 0xEC#8

/-- INVALID 0xED: R484. No instruction: the fault UnknownOpcode. -/
def execInvalidED (s : State) : Result := s.raiseUnknownOpcode 0xED#8

/-- DI: R482. -/
def execDi (s : State) : Result := .next ((s.setIme false).setImeScheduled false)

/-- INVALID 0xF4: R484. No instruction: the fault UnknownOpcode. -/
def execInvalidF4 (s : State) : Result := s.raiseUnknownOpcode 0xF4#8

/-- EI: R483. -/
def execEi (s : State) : Result := .next (s.setImeScheduled true)

/-- INVALID 0xFC: R484. No instruction: the fault UnknownOpcode. -/
def execInvalidFC (s : State) : Result := s.raiseUnknownOpcode 0xFC#8

/-- INVALID 0xFD: R484. No instruction: the fault UnknownOpcode. -/
def execInvalidFD (s : State) : Result := s.raiseUnknownOpcode 0xFD#8

end Sys2Proof.Machine
end

