-- ==== Sys2Proof/Machine/Engine.lean ====
section
/-! DEFINITION. The phases of a step (spec/40_engine.md R231): sampling the inputs, the stopped and halted states,
the interrupt entry, fetching, decoding, the bookkeeping of a decoded instruction, executing it, and handing out
the snapshot. -/

namespace Sys2Proof.Machine

/-! ### The start of a step -/

/-- The inputs of the coming step: the ones the environment has fixed, else free draws (spec/10_state.md R75;
spec/93_implementation_defined.md part 1). -/
def State.nextInputs (s : State) : Inputs :=
  match s.inputs with
  | x :: _ => x
  | [] => ⟨Config.freeIrq s.draws, Config.freeStopWake s.draws⟩

/-- `BEFORE <- S; WriteLog <- []; IRQ_ACK <- 0; extra <- 0`, and the inputs sampled once
(spec/40_engine.md R231; spec/10_state.md R75). From here on a step has been taken (log entry 30). -/
def State.beginStep (s : State) : State :=
  { s with
    bus := s.bus.raise s.nextInputs.irq
    inputs := s.inputs.tail
    draws := s.draws + 1
    stepped := true
    cur :=
      { before := s.cpu
        fetchAddr := s.cpu.pc
        irq := (s.bus.raise s.nextInputs.irq).requestLines s.nextInputs.irq
        stopWake := s.nextInputs.stopWake
        writes := []
        extra := 0
        irqAck := 0#5
        taken := true } }

/-! ### The end of a step -/

/-- The count of the step is added to CYCLES, the snapshot is handed out, the acknowledge reaches the owner of IF,
and the latch comes to rest (spec/40_engine.md R244, R245; spec/20_memory.md R125; spec/60_exceptions.md R561). -/
def State.finish (s : State) (kind : StepKind) (count : Nat) : State :=
  let cpu := { s.cpu with cycles := s.cpu.cycles + (count + s.cur.extra) }
  { s with
    cpu := cpu
    bus := s.bus.acknowledge s.cur.irqAck
    cur := StepLatch.rest cpu
    snapshot := some
      { before := s.cur.before
        after := cpu
        kind := kind
        writes := s.cur.writes
        cycles := count + s.cur.extra
        irqAck := s.cur.irqAck } }

/-- `idle(D, 4)`: only CYCLES changes (spec/40_engine.md R231 to R233). -/
def State.idle (s : State) (kind : StepKind) : State := s.finish kind 4

/-! ### The stopped and halted states, the interrupt entry -/

/-- A stopped step without STOP_WAKE (spec/40_engine.md R232). -/
def State.staysStopped (s : State) : Bool := s.cpu.stopped && !s.cur.stopWake

/-- `STOPPED <- 0` (spec/40_engine.md R232). -/
def State.leaveStop (s : State) : State := s.setStopped false

/-- A halted step with PENDING = 0 (spec/40_engine.md R233). -/
def State.staysHalted (s : State) : Bool := s.cpu.halted && s.lowestPending.isNone

/-- The wake from HALT: `HALTED <- 0; extra <- 4`; nothing if the core is not halted (spec/40_engine.md R233). -/
def State.leaveHalt (s : State) : State :=
  if s.cpu.halted then
    { s with cpu := { s.cpu with halted := false }, cur := { s.cur with extra := 4 } }
  else s

/-- The source the step dispatches: the lowest pending-enabled one while IME = 1 (spec/40_engine.md R234). -/
def State.dispatchTarget (s : State) : Option (Fin 5) :=
  if s.cpu.ime then s.lowestPending else none

/-- A dispatch step: 20 cycles (spec/60_exceptions.md R560, R562). -/
def State.dispatchStep (s : State) (n : Fin 5) : State := (s.takeInterrupt n).finish (.interrupt n) 20

/-! ### Fetching and decoding -/

/-- The address of the byte after the opcode: PC + 1, or PC itself while the halt bug holds PC
(spec/40_engine.md R239). -/
def State.afterOpcode (s : State) : Word := if s.cpu.haltBugArmed then s.cpu.pc else s.cpu.pc + 1#16

/-- The three bytes the fetch reads from, the opcode first. Reads have no effect, so the bytes an instruction does
not have may be looked at (log entry 12). -/
def State.window (s : State) : Byte × Byte × Byte :=
  (s.memRead s.cpu.pc, s.memRead s.afterOpcode, s.memRead (s.afterOpcode + 1#16))

/-- The same bytes as a list. -/
def State.fetchBytes (s : State) : List Byte := [s.window.1, s.window.2.1, s.window.2.2]

/-- The row the fetched bytes decode to (spec/40_engine.md R238, R240). -/
def State.fetchedInstr (s : State) : Instr := decodeWindow s.window.1 s.window.2.1 s.window.2.2

/-- The opcode byte: the byte after the prefix if there is one (spec/10_state.md R67). -/
def State.fetchedOpcode (s : State) : Byte := if s.window.1 = 0xCB#8 then s.window.2.1 else s.window.1

/-- The fetch of an instruction of `length` bytes: FETCH_ADDR, PC past its bytes, the halt bug disarmed
(spec/40_engine.md R231, R237 to R239, R241). -/
def State.fetched (s : State) (length : Nat) : State :=
  { s with
    cpu := { s.cpu with pc := s.afterOpcode + BitVec.ofNat 16 (length - 1), haltBugArmed := false }
    cur := { s.cur with fetchAddr := s.cpu.pc } }

/-- The EI promotion (spec/40_engine.md R236). -/
def State.promote (s : State) : State :=
  if s.cpu.imeScheduled then (s.setImeScheduled false).setIme true else s

/-- `OPERAND_VALUE <- imm` if there is an immediate (spec/40_engine.md R242). -/
def State.setOperandValue (s : State) (imm : Option Word) : State :=
  match imm with
  | none => s
  | some v => { s with cpu := { s.cpu with operandValue := v } }

/-- The state in which a fetched row executes: fetched, then IR and PREFIXED, the EI promotion and OPERAND_VALUE
written (spec/40_engine.md R231). For an INVALID row the fault undoes the last three (spec/60_exceptions.md R551). -/
def State.ready (s : State) (i : Instr) : State :=
  (((s.fetched i.length).noteOpcode (decide (s.window.1 = 0xCB#8)) s.fetchedOpcode).promote).setOperandValue
    i.form.operandValue

/-- What a step answers when the executed instruction has answered (spec/40_engine.md R231). -/
def completeStep (i : Instr) : Result → Result
  | .next t => .next (t.finish (.instruction i) (selectCycles (Form.cycles i.form) t.cur.taken))
  | .fault r => .fault r
  | .refused r => .refused r

/-- Fetch, decode and execute (spec/40_engine.md R231). -/
def State.executeStep (s : State) : Result :=
  completeStep s.fetchedInstr (exec s.fetchedInstr (s.ready s.fetchedInstr))

/-! ### The order in which a step tests what it is -/

/-- The interrupt entry, else the instruction (spec/40_engine.md R234; spec/60_exceptions.md R566, 4 and 5). -/
def State.dispatchOrExecute (s : State) : Result :=
  match s.dispatchTarget with
  | some n => .next (s.dispatchStep n)
  | none => s.executeStep

/-- The halted check and what follows it (spec/40_engine.md R233; spec/60_exceptions.md R566, 3). -/
def State.fromHaltedCheck (s : State) : Result :=
  if s.staysHalted then .next (s.idle .halted) else s.leaveHalt.dispatchOrExecute

/-- The stopped check and what follows it (spec/40_engine.md R232; spec/60_exceptions.md R566, 2). -/
def State.fromStoppedCheck (s : State) : Result :=
  if s.staysStopped then .next (s.idle .stopped) else s.leaveStop.fromHaltedCheck

/-! ### Placing an instruction where the next step fetches it -/

/-- Place a byte as a host load does; at 0xFFFF the core reads IE, so IE takes it (spec/20_memory.md R121). -/
def State.placeByte (s : State) (a : Word) (v : Byte) : State :=
  if a = ieAddress then s.setIe v else s.setBus (s.bus.load a.toNat v)

/-- Place bytes at an address and the ones after it. -/
def State.placeBytes (s : State) (a : Word) : List Byte → State
  | [] => s
  | v :: vs => (s.placeByte a v).placeBytes (a + 1#16) vs

/-- Make the next step fetch at PC: no fault, not stopped, not halted, the halt bug not armed, and no request if an
interrupt could be dispatched. In a state that would fetch anyway nothing changes (log entry 20). -/
def State.readyToFetch (s : State) : State :=
  { s with
    cpu := { s.cpu with fault := none, stopped := false, halted := false, haltBugArmed := false }
    inputs := if s.cpu.ime then ⟨0#5, false⟩ :: s.inputs.tail else s.inputs
    bus := if s.cpu.ime then { s.bus with ifReg := 0#5 } else s.bus }

end Sys2Proof.Machine
end

