-- ==== Sys2Proof/Machine/Step.lean ====
section
/-! DEFINITION. The step (spec/40_engine.md R231), and an instruction word placed where it is fetched next. -/

namespace Sys2Proof.Machine

/-- One step. A state whose FAULT is set answers the same fault and changes nothing (spec/10_state.md R70;
spec/93_implementation_defined.md part 1). Otherwise, in this order: the stopped no-op, the halted no-op, the
interrupt dispatch, the instruction (spec/60_exceptions.md R566). -/
def step (s : State) : Host.Outcome State Fault Refusal :=
  match s.cpu.fault with
  | some r => .fault (.unknownOpcode r s)
  | none => s.beginStep.fromStoppedCheck

/-- `s` with the instruction that the opcode table numbers `w` stored at PC, zeros after it up to three bytes, so
that the next step runs it. It stands for the host's load of a program (log entry 14). -/
def State.withFetchWord (s : State) (nbits w : Nat) : State :=
  s.readyToFetch.placeBytes s.cpu.pc (tableBytes nbits w)

end Sys2Proof.Machine
end

