-- ==== Sys2Proof/Machine/HostActions.lean ====
section
/-! DEFINITION. What the host may do between steps (spec/00_scope.md R19): a step, a run, a reset, a load of bus
bytes before the first step, a load of fields of the CPU state; with the two boot profiles (spec/10_state.md R73) and
the refusal OutOfRange (spec/60_exceptions.md R552). -/

namespace Sys2Proof.Machine

/-! ### Reset -/

/-- The CPU state after a reset under profile PowerOn, its draws those of index `draw` (spec/10_state.md R73;
spec/70_reset_and_hazards.md R602). -/
def Cpu.powerOn (draw : Nat) : Cpu where
  pc := 0x0000#16
  sp := Config.powerOnSP draw
  a := Config.powerOnA draw
  f := Config.powerOnFlags draw ++ 0b0000#4
  bc := Config.powerOnBC draw
  de := Config.powerOnDE draw
  hl := Config.powerOnHL draw
  prefixed := false
  ir := 0x00#8
  operandValue := 0x0000#16
  ie := Config.powerOnIE draw
  ime := false
  halted := false
  imeScheduled := false
  stopped := false
  haltBugArmed := false
  cycles := 0
  fault := none

/-- The CPU state after a reset under a boot profile (spec/10_state.md R73). -/
def Cpu.afterReset (boot : BootProfile) (draw : Nat) : Cpu :=
  match boot with
  | .postBootDMG => Cpu.postBootDMG
  | .powerOn => Cpu.powerOn draw

/-- The host's reset: every field of the CPU state at its reset value, FAULT cleared, the bus kept, no snapshot
(spec/70_reset_and_hazards.md R600, R603). The draw counter moves on, so no two resets share their draws; a step taken
before the reset stays taken (log entry 30). -/
def State.hostReset (s : State) : State :=
  let cpu := Cpu.afterReset s.params.boot s.draws
  { s with
    cpu := cpu
    draws := s.draws + 1
    cur := StepLatch.rest cpu
    snapshot := none }

/-! ### Loads -/

/-- The bound of a field of `width` bits. A value is loadable if it lies in `[0, 2^width)` (spec/10_state.md R71);
CYCLES is an unbounded natural. -/
def CpuField.width : CpuField → Option Nat
  | .pc | .sp | .bc | .de | .hl | .operandValue => some 16
  | .a | .f | .ir | .ie => some 8
  | .z | .n | .h | .c | .prefixed | .ime | .halted | .imeScheduled | .stopped | .haltBugArmed => some 1
  | .cycles => none

/-- Whether a value lies in `[0, 2^width)`, or is a natural if there is no width. -/
def inRange (width : Option Nat) (v : Int) : Bool :=
  match width with
  | some w => decide (0 ≤ v) && decide (v < 2 ^ w)
  | none => decide (0 ≤ v)

/-- Replace bit `n` of F. -/
def Cpu.setFlagBit (c : Cpu) (n : Nat) (v : Bool) : Cpu :=
  { c with f := (c.f &&& ~~~(1#8 <<< n)) ||| (BitVec.ofNat 8 v.toNat <<< n) }

/-- Store a value in range in a field. F[3:0] stores 0 (spec/10_state.md R53); a flag is its bit of F (R52).
DESIGN CHOICE (log entry 28): HALT_BUG_ARMED takes a 1 also under HALT_BUG = false, where spec/10_state.md R65 never
sets it: a load is refused for a value out of width only (spec/60_exceptions.md R552). The next fetch then holds PC. -/
def Cpu.loadField (c : Cpu) (which : CpuField) (v : Int) : Cpu :=
  match which with
  | .pc => { c with pc := BitVec.ofInt 16 v }
  | .sp => { c with sp := BitVec.ofInt 16 v }
  | .a => { c with a := BitVec.ofInt 8 v }
  | .f => { c with f := BitVec.ofInt 8 v &&& 0xF0#8 }
  | .z => c.setFlagBit 7 (decide (v = 1))
  | .n => c.setFlagBit 6 (decide (v = 1))
  | .h => c.setFlagBit 5 (decide (v = 1))
  | .c => c.setFlagBit 4 (decide (v = 1))
  | .bc => { c with bc := BitVec.ofInt 16 v }
  | .de => { c with de := BitVec.ofInt 16 v }
  | .hl => { c with hl := BitVec.ofInt 16 v }
  | .prefixed => { c with prefixed := decide (v = 1) }
  | .ir => { c with ir := BitVec.ofInt 8 v }
  | .operandValue => { c with operandValue := BitVec.ofInt 16 v }
  | .ie => { c with ie := BitVec.ofInt 8 v }
  | .ime => { c with ime := decide (v = 1) }
  | .halted => { c with halted := decide (v = 1) }
  | .imeScheduled => { c with imeScheduled := decide (v = 1) }
  | .stopped => { c with stopped := decide (v = 1) }
  | .haltBugArmed => { c with haltBugArmed := decide (v = 1) }
  | .cycles => { c with cycles := v.toNat }

/-- Load fields of the CPU state in order: refused as a whole at the first value out of range, the prior state kept
(spec/60_exceptions.md R552; spec/10_state.md R71). -/
def State.loadFields (s : State) (fields : List (CpuField × Int)) : Result :=
  match fields.find? (fun p => !inRange p.1.width p.2) with
  | some (which, v) => .fault (.outOfRange (.field which) v)
  | none =>
    let cpu := fields.foldl (fun c p => c.loadField p.1 p.2) s.cpu
    .next { s with cpu := cpu, cur := StepLatch.rest cpu }

/-- Load bytes of the bus in order: refused as a whole at the first value out of range
(spec/70_reset_and_hazards.md R603; spec/60_exceptions.md R552), and once a step has been taken
(spec/00_scope.md R19 (d); spec/20_memory.md R133; log entry 30). -/
def State.loadBytes (s : State) (bytes : List (Word × Int)) : Result :=
  match bytes.find? (fun p => !inRange (some 8) p.2) with
  | some (a, v) => .fault (.outOfRange (.busByte a) v)
  | none =>
    if s.stepped then .refused .busLoadAfterFirstStep
    else .next (s.setBus (bytes.foldl (fun b p => b.load p.1.toNat (BitVec.ofInt 8 p.2)) s.bus))

/-! ### The host's actions -/

/-- What the host may do to the core (spec/00_scope.md R19), `loadBus` before the first step only. `run n`
is a run that is stopped after `n` steps. -/
inductive HostAction where
  | step
  | run (n : Nat)
  | reset
  | loadBus (bytes : List (Word × Int))
  | loadCpu (fields : List (CpuField × Int))
  deriving DecidableEq, Repr

/-- A run: steps until the stop, ending at a faulting step (spec/00_scope.md R19, R20). -/
def run : Nat → State → Result
  | 0, s => .next s
  | n + 1, s =>
    match step s with
    | .next t => run n t
    | .fault r => .fault r
    | .refused r => .refused r

/-- What the core answers to an action of the host. -/
def State.perform (s : State) (action : HostAction) : Result :=
  match action with
  | .step => Sys2Proof.Machine.step s
  | .run n => Sys2Proof.Machine.run n s
  | .reset => .next s.hostReset
  | .loadBus bytes => s.loadBytes bytes
  | .loadCpu fields => s.loadFields fields

end Sys2Proof.Machine
end

