-- ==== Sys2Proof/Safety.lean ====
section
/-! DEFINITION. The terms the statements use: what a state between two steps satisfies, what memory keeps, what a
store leaves, what an instruction's destination register becomes, what a row's step counts. -/

namespace Sys2Proof.Machine

/-! ### Between two steps -/

/-- No fault is set: the state has a next step (spec/10_state.md R70). -/
def State.running (s : State) : Prop := s.cpu.fault = none

/-- What holds between two steps of a run: F[3:0] is 0 (spec/10_state.md R53), memory is in its canonical form, the
core is not halted and stopped at once, the halt bug is armed only as spec/10_state.md R65 and spec/47_system.md R480
allow, a scheduled IME waits for the very next instruction (R61), no fault is set, and the latch is at rest. -/
def State.Inv (s : State) : Prop :=
  s.cpu.f.extractLsb' 0 4 = 0#4 ∧
  Memory.wf s.bus.mem ∧
  ¬(s.cpu.halted = true ∧ s.cpu.stopped = true) ∧
  (s.cpu.haltBugArmed = true → s.params.haltBug = true ∧ s.cpu.ime = false ∧ s.cpu.imeScheduled = false ∧
    s.cpu.halted = false ∧ s.cpu.stopped = false) ∧
  (s.cpu.imeScheduled = true → s.cpu.halted = false ∧ s.cpu.stopped = false) ∧
  s.cpu.fault = none ∧
  s.cur = StepLatch.rest s.cpu

/-! ### Memory as the core reads it -/

/-- Every byte reads as before. -/
def ReadsSame (s t : State) : Prop := ∀ a : Word, t.memRead a = s.memRead a

/-- Every byte reads as before, but for the `n` bytes from `a` on and the addresses that are other names of them. -/
def ReadsSameOutside (s t : State) (a : Word) (n : Nat) : Prop :=
  ∀ b : Word, (∀ k < n, ¬ s.sharesStorage (a + BitVec.ofNat 16 k) b) → t.memRead b = s.memRead b

/-- A byte stored at `a` is read back there: IE, plain storage, or an echo of it. -/
def State.keeps (s : State) (a : Word) : Prop :=
  a = 0xFFFF#16 ∨ s.bus.kindAt a.toNat = .ram ∨ ∃ back, s.bus.kindAt a.toNat = .echo back

/-- What a `MemWrite` of `bytes` at `a` leaves (spec/20_memory.md R123 to R127): one record in the write log; each byte
at its address, where that keeps it and no later byte of the store lies there too; every byte outside as before; the
bus map, the parameters, the inputs, the draw counter, the first-step mark and the last snapshot as before. The CPU
state is not described here. -/
structure Stored (s t : State) (label : WriteLabel) (a : Word) (bytes : List Byte) : Prop where
  logged : t.cur = { s.cur with writes := s.cur.writes ++ [⟨label, a, bytes⟩] }
  held : ∀ k < bytes.length, s.keeps (a + BitVec.ofNat 16 k) →
    (∀ j, k < j → j < bytes.length → ¬ s.sharesStorage (a + BitVec.ofNat 16 j) (a + BitVec.ofNat 16 k)) →
    t.memRead (a + BitVec.ofNat 16 k) = bytes.getD k 0#8
  outside : ReadsSameOutside s t a bytes.length
  map : t.bus.regions = s.bus.regions ∧ t.bus.irqFromIf = s.bus.irqFromIf
  rest : t.params = s.params ∧ t.inputs = s.inputs ∧ t.draws = s.draws ∧ t.stepped = s.stepped ∧
    t.snapshot = s.snapshot

/-- IE after a byte is stored at `a` (spec/20_memory.md R121). -/
def State.ieAfterByte (s : State) (a : Word) (v : Byte) : Byte := if a = 0xFFFF#16 then v else s.cpu.ie

/-- IE after a 16-bit value is stored at `a`: at 0xFFFF it takes the low byte, at 0xFFFE the high byte
(spec/20_memory.md R121, R127, R129). -/
def State.ieAfterWord (s : State) (a v : Word) : Byte :=
  if a = 0xFFFF#16 then v.lo else if a = 0xFFFE#16 then v.hi else s.cpu.ie

/-! ### Destination registers -/

/-- `t` is `s` with the 8-bit register `r` at `v` and F at `f`: the other half of a pair, the other pairs and
everything else are as before (spec/10_state.md R54). -/
def WritesR8 (s t : State) (r : R8) (v f : Byte) : Prop :=
  t = { s with cpu := { s.cpu with a := t.cpu.a, bc := t.cpu.bc, de := t.cpu.de, hl := t.cpu.hl, f := f } } ∧
  ∀ r', r' ≠ .mHL → t.readR8 r' = if r' = r then v else s.readR8 r'

/-- `t` is `s` with the 16-bit register `rr` at `v`: everything else is as before. -/
def WritesR16 (s t : State) (rr : R16) (v : Word) : Prop :=
  t = { s with cpu := { s.cpu with bc := t.cpu.bc, de := t.cpu.de, hl := t.cpu.hl, sp := t.cpu.sp } } ∧
  ∀ rr', t.readR16 rr' = if rr' = rr then v else s.readR16 rr'

/-! ### Which instruction a statement is about, and its operand -/

/-- `i` is `op r`, `op (HL)` or `op d8` and `v` is its operand (spec/43_alu8.md, the table of forms). -/
def HasAluOperand (i : Instr) (op : AluOp) (s : State) (v : Byte) : Prop :=
  (∃ r, i.form = .alu op r ∧ v = s.readR8 r) ∨ i.form = .aluImm op v

/-- `i` loads `v` into the register `r`: LD r,r', LD r,(HL), LD r,d8 (spec/41_load8.md R280 to R282). -/
def LoadsR8 (i : Instr) (s : State) (r : R8) (v : Byte) : Prop :=
  r ≠ .mHL ∧ ((∃ r', i.form = .ld r r' ∧ v = s.readR8 r') ∨ i.form = .ldImm r v)

/-- `i` stores `v` at HL: LD (HL),r and LD (HL),d8 (spec/41_load8.md R283, R284). -/
def StoresAtHL (i : Instr) (s : State) (v : Byte) : Prop :=
  (∃ r, r ≠ .mHL ∧ i.form = .ld .mHL r ∧ v = s.readR8 r) ∨ i.form = .ldImm .mHL v

/-- `i` loads A from the address `a` and leaves `hl` in HL (spec/41_load8.md R285, R286, R289, R291, R293, R295,
R296). -/
def LoadsA (i : Instr) (s : State) (a hl : Word) : Prop :=
  (i.form = .ldAInd .bc ∧ a = s.cpu.bc ∧ hl = s.cpu.hl) ∨
  (i.form = .ldAInd .de ∧ a = s.cpu.de ∧ hl = s.cpu.hl) ∨
  (i.form = .ldAInd .hlInc ∧ a = s.cpu.hl ∧ hl = s.cpu.hl + 1#16) ∨
  (i.form = .ldAInd .hlDec ∧ a = s.cpu.hl ∧ hl = s.cpu.hl - 1#16) ∨
  (i.form = .ldAMa16 a ∧ hl = s.cpu.hl) ∨
  (∃ a8 : Byte, i.form = .ldhAMa8 a8 ∧ a = 0xFF#8 ++ a8 ∧ hl = s.cpu.hl) ∨
  (i.form = .ldAMc ∧ a = 0xFF#8 ++ s.cpu.bc.extractLsb' 0 8 ∧ hl = s.cpu.hl)

/-- `i` stores A at the address `a` with that label and leaves `hl` in HL (spec/41_load8.md R287, R288, R290, R292,
R294, R297, R298). -/
def StoresA (i : Instr) (s : State) (label : WriteLabel) (a hl : Word) : Prop :=
  (i.form = .ldIndA .bc ∧ label = .mBC ∧ a = s.cpu.bc ∧ hl = s.cpu.hl) ∨
  (i.form = .ldIndA .de ∧ label = .mDE ∧ a = s.cpu.de ∧ hl = s.cpu.hl) ∨
  (i.form = .ldIndA .hlInc ∧ label = .mHLInc ∧ a = s.cpu.hl ∧ hl = s.cpu.hl + 1#16) ∨
  (i.form = .ldIndA .hlDec ∧ label = .mHLDec ∧ a = s.cpu.hl ∧ hl = s.cpu.hl - 1#16) ∨
  (i.form = .ldMa16A a ∧ label = .ma16 ∧ hl = s.cpu.hl) ∨
  (∃ a8 : Byte, i.form = .ldhMa8A a8 ∧ label = .ma8 ∧ a = 0xFF#8 ++ a8 ∧ hl = s.cpu.hl) ∨
  (i.form = .ldMcA ∧ label = .mC ∧ a = 0xFF#8 ++ s.cpu.bc.extractLsb' 0 8 ∧ hl = s.cpu.hl)

/-- `i` leaves `v` in the 16-bit register `rr` and writes no flag: LD rr,d16, LD SP,HL, INC rr, DEC rr
(spec/42_load16_stack.md R320, R322; spec/44_alu16.md R390, R391). -/
def SetsR16 (i : Instr) (s : State) (rr : R16) (v : Word) : Prop :=
  i.form = .ld16 rr v ∨
  (i.form = .ldSpHl ∧ rr = .sp ∧ v = s.cpu.hl) ∨
  (i.form = .inc16 rr ∧ v = s.readR16 rr + 1#16) ∨
  (i.form = .dec16 rr ∧ v = s.readR16 rr - 1#16)

/-- The value of a 16-bit word read at `a`: the byte at `a` is its low byte (spec/20_memory.md R127). -/
def State.wordAt (s : State) (a : Word) : Word := s.memRead (a + 1#16) ++ s.memRead a

/-- The result and the carry of a CB rotate, shift or swap of `v` with carry-in `cy`, by bits: bit `k` of the result
is given for every `k` below 8 (spec/48_cb_bitops.md R510 to R517). -/
def RotatesTo (op : RotOp) (v : Byte) (cy : Bool) (res : Byte) (c : Bool) : Prop :=
  match op with
  | .rlc => c = v.getLsbD 7 ∧ ∀ k < 8, res.getLsbD k = if k = 0 then v.getLsbD 7 else v.getLsbD (k - 1)
  | .rrc => c = v.getLsbD 0 ∧ ∀ k < 8, res.getLsbD k = if k = 7 then v.getLsbD 0 else v.getLsbD (k + 1)
  | .rl => c = v.getLsbD 7 ∧ ∀ k < 8, res.getLsbD k = if k = 0 then cy else v.getLsbD (k - 1)
  | .rr => c = v.getLsbD 0 ∧ ∀ k < 8, res.getLsbD k = if k = 7 then cy else v.getLsbD (k + 1)
  | .sla => c = v.getLsbD 7 ∧ ∀ k < 8, res.getLsbD k = if k = 0 then false else v.getLsbD (k - 1)
  | .sra => c = v.getLsbD 0 ∧ ∀ k < 8, res.getLsbD k = if k = 7 then v.getLsbD 7 else v.getLsbD (k + 1)
  | .swap => c = false ∧ ∀ k < 8, res.getLsbD k = v.getLsbD (if k < 4 then k + 4 else k - 4)
  | .srl => c = v.getLsbD 0 ∧ ∀ k < 8, res.getLsbD k = if k = 7 then false else v.getLsbD (k + 1)

/-! ### The count of a row -/

/-- The condition of a conditional row (spec/46_control.md R441, R444, R446, R448). -/
def Form.condition : Form → Option Cond
  | .jpCond cc _ | .jrCond cc _ | .callCond cc _ | .retCond cc => some cc
  | _ => none

/-- The T-states an instruction step reports for a row, before the 4 of a wake from HALT: the numbers of the table of
spec/70_reset_and_hazards.md R612 and of the *Cycles* lines it names, family by family. `held` says which conditions
hold. The invalid rows report none, nor does the
prefix row, which is never the executed one. -/
def reportedCount (f : Form) (held : Cond → Bool) : Option Nat :=
  match f with
  -- 8-bit loads, R280 to R298
  | .ld dst src => some (if dst = .mHL ∨ src = .mHL then 8 else 4)
  | .ldImm dst _ => some (if dst = .mHL then 12 else 8)
  | .ldAInd _ | .ldIndA _ | .ldAMc | .ldMcA => some 8
  | .ldhAMa8 _ | .ldhMa8A _ => some 12
  | .ldAMa16 _ | .ldMa16A _ => some 16
  -- 16-bit loads and stack, R320 to R326
  | .ld16 _ _ | .pop _ | .ldHlSp _ => some 12
  | .ldSpHl => some 8
  | .push _ => some 16
  | .ldMa16Sp _ => some 20
  -- 8-bit ALU, R350 to R361
  | .alu _ src => some (if src = .mHL then 8 else 4)
  | .aluImm _ _ => some 8
  | .inc r | .dec r => some (if r = .mHL then 12 else 4)
  -- 16-bit ALU, R390 to R393
  | .inc16 _ | .dec16 _ | .addHl _ => some 8
  | .addSp _ => some 16
  -- accumulator and flags, NOP, R410 to R418
  | .rlca | .rrca | .rla | .rra | .daa | .cpl | .scf | .ccf | .nop => some 4
  -- control transfer, R440 to R450
  | .jp _ => some 16
  | .jpCond cc _ => some (if held cc then 16 else 12)
  | .jpHL => some 4
  | .jr _ => some 12
  | .jrCond cc _ => some (if held cc then 12 else 8)
  | .call _ => some 24
  | .callCond cc _ => some (if held cc then 24 else 12)
  | .ret | .reti | .rst _ => some 16
  | .retCond cc => some (if held cc then 20 else 8)
  -- system, R480 to R485
  | .halt | .stop _ | .di | .ei => some 4
  | .invalid _ | .prefixCB => none
  -- CB prefixed, R510 to R520
  | .rot _ r | .res _ r | .set _ r => some (if r = .mHL then 16 else 8)
  | .bit _ r => some (if r = .mHL then 12 else 8)

/-! ### Decimal numbers -/

/-- A byte whose two nibbles are decimal digits, and the number it stands for. -/
def isBcd (v : Byte) : Prop := v.toNat / 16 ≤ 9 ∧ v.toNat % 16 ≤ 9
/-- The number a BCD byte stands for. -/
def bcdValue (v : Byte) : Nat := v.toNat / 16 * 10 + v.toNat % 16

end Sys2Proof.Machine
end

