-- ==== Sys2Proof/Certificates/Slice0/Obligations.lean ====
section
/-! DEFINITION. The statements for the provers. Each is a def of type Prop; OBLIGATIONS.json lists them with their
rules. In a statement about an instruction, `i.form` is the row's form with its fields, so the statement holds for
every row of that form; the docstring names the rows. `Stored`, `WritesR8` and `WritesR16` (Sys2Proof/Safety.lean) say
what changes and that nothing else does; where the next state is written as an update of `s`, the fields the update
does not name are as before. -/

section

open Sys2Proof Sys2Proof.Machine

/-! ### Encoding -/

/-- Decoding the encoding of a well-formed instruction, with any bytes after it, gives the instruction and those
bytes: every row but the prefix and the invalid ones, every operand at every value. -/
def Obligations.EncodeThenDecode : Prop :=
  ∀ (i : Instr) (rest : List Byte), i.wellFormed = true → decode (encode i ++ rest) = .ok (i, rest)

/-- Encoding what was decoded gives the bytes back: no bit of an encoding is dropped, and each word has one meaning. -/
def Obligations.DecodeThenEncode : Prop :=
  ∀ (bytes rest : List Byte) (i : Instr), decode bytes = .ok (i, rest) → i.wellFormed = true →
    encode i ++ rest = bytes

/-- Words written out from the patterns of spec/30_encoding.md R203 and R204, one or two for each family, decode to
their instructions. A sanity statement. -/
def Obligations.WrittenOutWords : Prop :=
  decode [0b01000111#8] = .ok (.ldBA, []) ∧
  decode [0b00111110#8, 0x3F#8] = .ok (.ldAD8 0x3F#8, []) ∧
  decode [0b00100010#8] = .ok (.ldMhlIncA, []) ∧
  decode [0b00110001#8, 0xFF#8, 0xDF#8] = .ok (.ldSpD16 0xDFFF#16, []) ∧
  decode [0b11110001#8] = .ok (.popAf, []) ∧
  decode [0b10011100#8] = .ok (.sbcAH, []) ∧
  decode [0b11100110#8, 0x0F#8] = .ok (.andD8 0x0F#8, []) ∧
  decode [0b00101101#8] = .ok (.decL, []) ∧
  decode [0b00111001#8] = .ok (.addHlSp, []) ∧
  decode [0b00100111#8] = .ok (.daa, []) ∧
  decode [0b11001010#8, 0x00#8, 0x20#8] = .ok (.jpZA16 0x2000#16, []) ∧
  decode [0b11101111#8] = .ok (.rst28h, []) ∧
  decode [0b01110110#8] = .ok (.halt, []) ∧
  decode [0b00010000#8, 0x00#8] = .ok (.stop 0x00#8, []) ∧
  decode [0xCB#8, 0b00110111#8] = .ok (.swapA, []) ∧
  decode [0xCB#8, 0b11011110#8] = .ok (.setMhl 3#3, [])

/-- Exactly the eleven bytes of R196 begin no instruction: their rows are the invalid ones and running one is the fault
UnknownOpcode with that byte, never a no-op; every other first byte begins an instruction. -/
def Obligations.ElevenInvalidOpcodes : Prop :=
  ∀ b0 b1 b2 : Byte,
    ((decodeWindow b0 b1 b2).isInvalid = true ↔
      b0 ∈ [0xD3#8, 0xDB#8, 0xDD#8, 0xE3#8, 0xE4#8, 0xEB#8, 0xEC#8, 0xED#8, 0xF4#8, 0xFC#8, 0xFD#8]) ∧
    ((decodeWindow b0 b1 b2).isInvalid = true →
      ∀ s, ∃ r t, exec (decodeWindow b0 b1 b2) s = .fault (.unknownOpcode r t) ∧ r.opcode = b0) ∧
    ((decodeWindow b0 b1 b2).isInvalid = false → (decodeWindow b0 b1 b2).wellFormed = true)

/-- All 256 bytes after 0xCB are instructions of two bytes, and none of them faults. -/
def Obligations.EveryCbOpcodeRuns : Prop :=
  ∀ op b2 : Byte,
    (decodeWindow 0xCB#8 op b2).wellFormed = true ∧ (decodeWindow 0xCB#8 op b2).length = 2 ∧
    ∀ s, ∃ t, exec (decodeWindow 0xCB#8 op b2) s = .next t

/-! ### The step -/

/-- When the step is neither a stopped nor a halted no-op nor a dispatch, and the bytes at PC decode to a well-formed
instruction, the step is `exec` of it in the state `ready` (PC past its bytes, IR, PREFIXED, the EI promotion and
OPERAND_VALUE done), and a next state is finished (the count added to CYCLES, the snapshot handed out). -/
def Obligations.StepRunsDecodedInstruction : Prop :=
  ∀ (s u : State) (i : Instr) (rest : List Byte),
    s.cpu.fault = none → s.beginStep.staysStopped = false → s.beginStep.leaveStop.staysHalted = false →
    u = s.beginStep.leaveStop.leaveHalt → u.dispatchTarget = none →
    decode [u.memRead u.cpu.pc, u.memRead u.afterOpcode, u.memRead (u.afterOpcode + 1#16)] = .ok (i, rest) →
    i.wellFormed = true →
    step s = completeStep i (exec i (u.ready i)) ∧
    ∀ t, exec i (u.ready i) = .next t →
      step s = .next (t.finish (.instruction i) (selectCycles (Form.cycles i.form) t.cur.taken))

/-- What an instruction sees when it runs: PC past its bytes (the opcode byte not counted while the halt bug holds PC),
the halt bug disarmed, IR and PREFIXED, a scheduled IME promoted, and OPERAND_VALUE: the byte after the opcode of a
two-byte unprefixed instruction, the two bytes of a three-byte one, unchanged else. Nothing but the CPU state and
FETCH_ADDR changes. -/
def Obligations.WhatAnInstructionSees : Prop :=
  ∀ (s : State) (i : Instr) (b0 b1 b2 : Byte) (first : Word),
    b0 = s.memRead s.cpu.pc →
    first = (if s.cpu.haltBugArmed then s.cpu.pc else s.cpu.pc + 1#16) →
    b1 = s.memRead first → b2 = s.memRead (first + 1#16) → i = s.fetchedInstr →
    s.ready i =
      { s with
        cpu :=
          { s.cpu with
            pc := first + BitVec.ofNat 16 (i.length - 1)
            haltBugArmed := false
            ir := if b0 = 0xCB#8 then b1 else b0
            prefixed := decide (b0 = 0xCB#8)
            ime := s.cpu.ime || s.cpu.imeScheduled
            imeScheduled := false
            operandValue :=
              if b0 = 0xCB#8 ∨ i.length = 1 then s.cpu.operandValue
              else if i.length = 2 then b1.zeroExtend 16
              else b2 ++ b1 }
        cur := { s.cur with fetchAddr := s.cpu.pc } } ∧
    (b0 = 0xCB#8 → i.length = 2)

/-- A stopped step: without STOP_WAKE only CYCLES changes, by 4, whatever IRQ is, and the STOPPED pseudo-descriptor is
reported; with it STOPPED is cleared and the same step goes on with the halted check, the interrupt check and the
fetch. The clause `t.bus = s.bus.raise s.nextInputs.irq` is the model's choice (DEDUCED, log entry 11): under DMGBus the
peripherals' requests of the step reach IF, which is outside the core. That the pseudo-descriptor's operand list is
empty is the model's choice (DESIGN CHOICE, log entry 31). -/
def Obligations.StoppedStep : Prop :=
  ∀ s : State, s.cpu.fault = none → s.cpu.stopped = true →
    (s.nextInputs.stopWake = false →
      ∃ t, step s = .next t ∧
        t.cpu = { s.cpu with cycles := s.cpu.cycles + 4 } ∧
        t.bus = s.bus.raise s.nextInputs.irq ∧ t.params = s.params ∧
        t.snapshot = some ⟨s.cpu, t.cpu, .stopped, [], 4, 0#5⟩ ∧
        t.snapshot.map Snapshot.descriptor = some ⟨"STOPPED", 0, [4], [], FlagEffects.keepAll⟩) ∧
    (s.nextInputs.stopWake = true →
      s.beginStep.leaveStop.cpu = { s.cpu with stopped := false } ∧
      step s = s.beginStep.leaveStop.fromHaltedCheck)

/-- A halted step: with no pending-enabled interrupt only CYCLES changes, by 4; else HALTED is cleared, 4 cycles are
added and the same step dispatches with IME = 1, or fetches and executes with IME = 0. The clause
`t.bus = s.bus.raise s.nextInputs.irq` is the model's choice (DEDUCED, log entry 11). -/
def Obligations.HaltedStep : Prop :=
  ∀ s : State, s.cpu.fault = none → s.cpu.stopped = false → s.cpu.halted = true →
    (s.cpu.ie.extractLsb' 0 5 &&& s.beginStep.cur.irq = 0#5 →
      ∃ t, step s = .next t ∧
        t.cpu = { s.cpu with cycles := s.cpu.cycles + 4 } ∧
        t.bus = s.bus.raise s.nextInputs.irq ∧ t.params = s.params ∧
        t.snapshot = some ⟨s.cpu, t.cpu, .halted, [], 4, 0#5⟩) ∧
    (s.cpu.ie.extractLsb' 0 5 &&& s.beginStep.cur.irq ≠ 0#5 →
      s.beginStep.leaveHalt.cpu = { s.cpu with halted := false } ∧ s.beginStep.leaveHalt.cur.extra = 4 ∧
      (s.cpu.ime = true → ∃ n, step s = .next (s.beginStep.leaveHalt.dispatchStep n)) ∧
      (s.cpu.ime = false → step s = s.beginStep.leaveHalt.executeStep))

/-- A dispatch: IME and IME_SCHEDULED cleared, PC pushed with label INT, PC at the vector of the lowest pending-enabled
source, that source acknowledged, 20 cycles and 4 more on a wake from HALT; nothing else of the CPU state changes but
HALTED and STOPPED on a wake and IE where a stack byte lies at 0xFFFF. Memory outside the two stack bytes reads as at
the start of the step, IF apart, which its owner clears (log entry 11). -/
def Obligations.DispatchStep : Prop :=
  ∀ (s : State) (n : Fin 5),
    Memory.wf s.bus.mem → s.cpu.fault = none → (s.cpu.stopped = true → s.nextInputs.stopWake = true) →
    s.cpu.ime = true →
    (s.cpu.ie.extractLsb' 0 5 &&& s.beginStep.cur.irq).getLsbD n.val = true →
    (∀ m < n.val, (s.cpu.ie.extractLsb' 0 5 &&& s.beginStep.cur.irq).getLsbD m = false) →
    ∃ t, step s = .next t ∧
      t.cpu =
        { s.cpu with
          pc := 0x0040#16 + BitVec.ofNat 16 (8 * n.val)
          sp := s.cpu.sp - 2#16
          ie := s.ieAfterWord (s.cpu.sp - 2#16) s.cpu.pc
          ime := false
          imeScheduled := false
          halted := false
          stopped := false
          cycles := s.cpu.cycles + (20 + if s.cpu.halted then 4 else 0) } ∧
      t.snapshot = some
        { before := s.cpu
          after := t.cpu
          kind := .interrupt n
          writes := [⟨.int, s.cpu.sp - 2#16, [s.cpu.pc.extractLsb' 0 8, s.cpu.pc.extractLsb' 8 8]⟩]
          cycles := 20 + if s.cpu.halted then 4 else 0
          irqAck := 1#5 <<< n.val } ∧
      (s.keeps (s.cpu.sp - 2#16) → ¬ s.sharesStorage (s.cpu.sp - 1#16) (s.cpu.sp - 2#16) →
        t.memRead (s.cpu.sp - 2#16) = s.cpu.pc.extractLsb' 0 8) ∧
      (s.keeps (s.cpu.sp - 1#16) → t.memRead (s.cpu.sp - 1#16) = s.cpu.pc.extractLsb' 8 8) ∧
      (∀ b, s.storageAt b ≠ .interruptFlag → ¬ s.sharesStorage (s.cpu.sp - 2#16) b →
        ¬ s.sharesStorage (s.cpu.sp - 1#16) b → t.memRead b = s.beginStep.memRead b)

/-- What a step can end in. From a state whose FAULT is set: the same fault, nothing changed. Otherwise a next state
with a snapshot and no fault, or the fault UnknownOpcode whose state holds the record and no snapshot. A step never
refuses, and never raises OutOfRange; it writes neither a parameter nor the bus map. That the step from a state whose
FAULT is set answers the same fault is the model's choice (DEDUCED, log entry 4): spec/10_state.md R70 and
spec/40_engine.md R230 give such a step no outcome, and spec/93_implementation_defined.md says "every later step returns
the same fault and changes nothing". -/
def Obligations.StepOutcomes : Prop :=
  ∀ s : State,
    (∀ r, s.cpu.fault = some r → step s = .fault (.unknownOpcode r s)) ∧
    (s.cpu.fault = none →
      (∃ t p, step s = .next t ∧ t.cpu.fault = none ∧ t.snapshot = some p ∧ t.params = s.params ∧
        t.bus.regions = s.bus.regions ∧ t.bus.irqFromIf = s.bus.irqFromIf) ∨
      (∃ r t, step s = .fault (.unknownOpcode r t) ∧ t.cpu.fault = some r ∧ t.snapshot = none ∧
        t.params = s.params ∧ t.bus.regions = s.bus.regions ∧ t.bus.irqFromIf = s.bus.irqFromIf))

/-- The fault step. When a step fetches, one of the eleven bytes gives the state at step entry but PC past the opcode
byte (or at it while the halt bug held PC), HALT_BUG_ARMED cleared and FAULT set to the record; the bus as at the start
of the step, an empty write log, no snapshot; every later step answers the same fault. Any other byte, 0xCB with
whatever follows it among them, gives no fault. Three clauses are the model's choice (DEDUCED): that every later step
answers the same fault (log entry 4), that HALTED and STOPPED are those of step entry even after a wake (log entry 5,
by R551's wording), and that the bus is `s.beginStep.bus`, with the peripherals' requests of the step in IF under DMGBus
(log entry 11). -/
def Obligations.UnknownOpcodeStep : Prop :=
  ∀ (s u : State) (op : Byte),
    s.cpu.fault = none → s.beginStep.staysStopped = false → s.beginStep.leaveStop.staysHalted = false →
    u = s.beginStep.leaveStop.leaveHalt → u.dispatchTarget = none → op = u.memRead u.cpu.pc →
    (op ∈ [0xD3#8, 0xDB#8, 0xDD#8, 0xE3#8, 0xE4#8, 0xEB#8, 0xEC#8, 0xED#8, 0xF4#8, 0xFC#8, 0xFD#8] →
      ∃ t, step s = .fault (.unknownOpcode ⟨false, op, s.cpu.pc⟩ t) ∧
        t.cpu =
          { s.cpu with
            pc := if s.cpu.haltBugArmed then s.cpu.pc else s.cpu.pc + 1#16
            haltBugArmed := false
            fault := some ⟨false, op, s.cpu.pc⟩ } ∧
        t.bus = s.beginStep.bus ∧ t.params = s.params ∧ t.cur.writes = [] ∧ t.snapshot = none ∧
        step t = .fault (.unknownOpcode ⟨false, op, s.cpu.pc⟩ t)) ∧
    (op ∉ [0xD3#8, 0xDB#8, 0xDD#8, 0xE3#8, 0xE4#8, 0xEB#8, 0xEC#8, 0xED#8, 0xF4#8, 0xFC#8, 0xFD#8] →
      ∃ t, step s = .next t)

/-- PREFIXED and IR after a step: an instruction leaves in them whether it was prefixed and the opcode byte that
selected it; a dispatch, a halted and a stopped step and a faulting step leave them unchanged. -/
def Obligations.PrefixedAndIr : Prop :=
  ∀ s u : State, s.cpu.fault = none → u = s.beginStep.leaveStop.leaveHalt →
    (∀ t i, step s = .next t → t.snapshot.map Snapshot.kind = some (.instruction i) →
      t.cpu.prefixed = decide (u.memRead u.cpu.pc = 0xCB#8) ∧
      t.cpu.ir =
        if u.memRead u.cpu.pc = 0xCB#8 then u.memRead u.afterOpcode else u.memRead u.cpu.pc) ∧
    (∀ t k, step s = .next t → t.snapshot.map Snapshot.kind = some k → (∀ i, k ≠ .instruction i) →
      t.cpu.prefixed = s.cpu.prefixed ∧ t.cpu.ir = s.cpu.ir ∧ t.cpu.operandValue = s.cpu.operandValue) ∧
    (∀ r t, step s = .fault (.unknownOpcode r t) →
      t.cpu.prefixed = s.cpu.prefixed ∧ t.cpu.ir = s.cpu.ir ∧ t.cpu.operandValue = s.cpu.operandValue)

/-- IME and IME_SCHEDULED after a step. An instruction step promotes a scheduled IME, then DI, RETI and EI write; with
IME = 0 at its start no step dispatches, so the instruction after EI runs first; a faulting step does not promote; a
dispatch clears both; a no-op leaves both. -/
def Obligations.ImePromotion : Prop :=
  ∀ s : State, s.cpu.fault = none →
    (∀ t i, step s = .next t → t.snapshot.map Snapshot.kind = some (.instruction i) →
      t.cpu.ime = (if i = .di then false else if i = .reti then true else s.cpu.ime || s.cpu.imeScheduled) ∧
      t.cpu.imeScheduled = decide (i = .ei)) ∧
    (∀ t n, step s = .next t → t.snapshot.map Snapshot.kind = some (.interrupt n) →
      s.cpu.ime = true ∧ t.cpu.ime = false ∧ t.cpu.imeScheduled = false) ∧
    (∀ t k, step s = .next t → t.snapshot.map Snapshot.kind = some k → k = .halted ∨ k = .stopped →
      t.cpu.ime = s.cpu.ime ∧ t.cpu.imeScheduled = s.cpu.imeScheduled) ∧
    (∀ r t, step s = .fault (.unknownOpcode r t) →
      t.cpu.ime = s.cpu.ime ∧ t.cpu.imeScheduled = s.cpu.imeScheduled)

/-- CYCLES and the snapshot: the snapshot holds the state before and after and the count of the step, which is added
to CYCLES and nothing else is. The count of an instruction is the number the table of R612 gives its row
(`reportedCount`), for a conditional row the taken one exactly when its condition held, and the one its descriptor
selects so; the condition is read in F as at step entry, which nothing writes before the instruction executes. 20 for a
dispatch, 4 for a no-op, and 4 more on a wake from HALT; IRQ_ACK is one-hot on a dispatch and 0 else; a faulting step
adds nothing. -/
def Obligations.CyclesAndSnapshot : Prop :=
  ∀ s : State, s.cpu.fault = none →
    (∀ t, step s = .next t → ∃ p, t.snapshot = some p ∧ p.before = s.cpu ∧ p.after = t.cpu ∧
      t.cpu.cycles = s.cpu.cycles + p.cycles ∧
      match p.kind with
      | .instruction i =>
        p.irqAck = 0#5 ∧
        ∃ n, reportedCount i.form s.cond = some n ∧ p.cycles = n + (if s.cpu.halted then 4 else 0) ∧
          n = selectCycles (instrDescriptor i).cycles (((Form.condition i.form).map s.cond).getD true)
      | .interrupt n => p.irqAck = 1#5 <<< n.val ∧ p.cycles = 20 + (if s.cpu.halted then 4 else 0)
      | .halted | .stopped => p.irqAck = 0#5 ∧ p.cycles = 4) ∧
    (∀ r t, step s = .fault (.unknownOpcode r t) → t.cpu.cycles = s.cpu.cycles)

/-- The invariant is kept by every step, from every state that satisfies it. -/
def Obligations.StepKeepsInv : Prop :=
  ∀ s t : State, s.Inv → step s = .next t → t.Inv

/-- The invariant holds right after reset. -/
def Obligations.ResetHasInv : Prop := State.reset.Inv

/-! ### Reset and the host -/

/-- The reset values of both boot profiles: the table of R73. Under PowerOn, A, F[7:4], BC, DE, HL, SP and IE are draws
and nothing is said of them. -/
def Obligations.ResetValues : Prop :=
  (∀ draw, Cpu.afterReset .postBootDMG draw =
    { pc := 0x0100#16, sp := 0xFFFE#16, a := 0x01#8, f := 0xB0#8, bc := 0x0013#16, de := 0x00D8#16,
      hl := 0x014D#16, prefixed := false, ir := 0x00#8, operandValue := 0x0000#16, ie := 0x00#8, ime := false,
      halted := false, imeScheduled := false, stopped := false, haltBugArmed := false, cycles := 0,
      fault := none }) ∧
  (∀ draw, ∃ sp a f bc de hl ie, f.extractLsb' 0 4 = 0#4 ∧ Cpu.afterReset .powerOn draw =
    { pc := 0x0000#16, sp := sp, a := a, f := f, bc := bc, de := de,
      hl := hl, prefixed := false, ir := 0x00#8, operandValue := 0x0000#16, ie := ie, ime := false,
      halted := false, imeScheduled := false, stopped := false, haltBugArmed := false, cycles := 0,
      fault := none }) ∧
  State.reset.cpu = Cpu.afterReset .postBootDMG 0 ∧ State.reset.params = ⟨true, .postBootDMG⟩

/-- The host's reset: from every state, a faulted one too, every field of the CPU state takes its reset value under
the profile, and nothing else is done: no memory written, no write record, no snapshot. -/
def Obligations.HostReset : Prop :=
  ∀ s : State, ∃ t, s.perform .reset = .next t ∧ t.cpu = Cpu.afterReset s.params.boot s.draws ∧
    t.cpu.fault = none ∧ t.bus = s.bus ∧ t.params = s.params ∧ t.cur.writes = [] ∧ t.snapshot = none

/-- A host load outside the width is refused as a whole and names what it refuses; a load inside is done and read back:
bytes of the bus, the 8-bit cells A, IR and IE, the 16-bit cells. (F[3:0] reads 0 whatever is loaded, log entry 17.)
That a loaded byte is stored and read back in the bus memory at the very address it names, whatever the region's kind,
an echo, IF, a peripheral and an unmapped address of DMGBus included, is the model's choice (DESIGN CHOICE, log entry
29). The bus is loaded before the first step only: once a step has been taken, one that faults too, a load of bytes in
range is refused by name. That such a load is answered by that refusal is the model's choice (DESIGN CHOICE, log entry
30), and so are what counts as the first step and that a reset brings no new one (DEDUCED, log entry 30). No step raises
OutOfRange. -/
def Obligations.OutOfRangeLoads : Prop :=
  ∀ s : State, Memory.wf s.bus.mem →
    (∀ bytes : List (Word × Int), (∃ p ∈ bytes, p.2 < 0 ∨ 256 ≤ p.2) →
      ∃ p ∈ bytes, (p.2 < 0 ∨ 256 ≤ p.2) ∧ s.perform (.loadBus bytes) = .fault (.outOfRange (.busByte p.1) p.2)) ∧
    (∀ (a : Word) (v : Int), s.stepped = false → 0 ≤ v → v < 256 →
      ∃ t, s.perform (.loadBus [(a, v)]) = .next t ∧ ((Memory.read t.bus.mem a.toNat).toNat : Int) = v ∧
        (∀ b, b ≠ a.toNat → Memory.read t.bus.mem b = Memory.read s.bus.mem b) ∧ t.cpu = s.cpu) ∧
    (∀ bytes : List (Word × Int), s.stepped = true → (∀ p ∈ bytes, 0 ≤ p.2 ∧ p.2 < 256) →
      s.perform (.loadBus bytes) = .refused .busLoadAfterFirstStep) ∧
    (s.cpu.fault = none → (∃ t, step s = .next t ∧ t.stepped = true) ∨
      ∃ r t, step s = .fault (.unknownOpcode r t) ∧ t.stepped = true) ∧
    (∃ t, s.perform .reset = .next t ∧ t.stepped = s.stepped) ∧
    (∀ fields : List (CpuField × Int),
      (∃ p ∈ fields, p.2 < 0 ∨ ∃ w, p.1.width = some w ∧ 2 ^ w ≤ p.2) →
      ∃ p ∈ fields, (p.2 < 0 ∨ ∃ w, p.1.width = some w ∧ 2 ^ w ≤ p.2) ∧
        s.perform (.loadCpu fields) = .fault (.outOfRange (.field p.1) p.2)) ∧
    (∀ (v : Int), 0 ≤ v → v < 256 →
      (∃ t, s.perform (.loadCpu [(.a, v)]) = .next t ∧ (t.cpu.a.toNat : Int) = v ∧
        t.cpu = { s.cpu with a := t.cpu.a } ∧ t.bus = s.bus) ∧
      (∃ t, s.perform (.loadCpu [(.ir, v)]) = .next t ∧ (t.cpu.ir.toNat : Int) = v) ∧
      (∃ t, s.perform (.loadCpu [(.ie, v)]) = .next t ∧ (t.cpu.ie.toNat : Int) = v)) ∧
    (∀ (v : Int), 0 ≤ v → v < 65536 →
      (∃ t, s.perform (.loadCpu [(.pc, v)]) = .next t ∧ (t.cpu.pc.toNat : Int) = v) ∧
      (∃ t, s.perform (.loadCpu [(.sp, v)]) = .next t ∧ (t.cpu.sp.toNat : Int) = v) ∧
      (∃ t, s.perform (.loadCpu [(.bc, v)]) = .next t ∧ (t.cpu.bc.toNat : Int) = v) ∧
      (∃ t, s.perform (.loadCpu [(.de, v)]) = .next t ∧ (t.cpu.de.toNat : Int) = v) ∧
      (∃ t, s.perform (.loadCpu [(.hl, v)]) = .next t ∧ (t.cpu.hl.toNat : Int) = v) ∧
      (∃ t, s.perform (.loadCpu [(.operandValue, v)]) = .next t ∧ (t.cpu.operandValue.toNat : Int) = v)) ∧
    (∀ target v, step s ≠ .fault (.outOfRange target v))

/-! ### Memory and registers -/

/-- Every instruction's writes are in its log: what it appends is at most one record, and every byte whose storage no
appended record names reads as before. -/
def Obligations.EveryWriteIsLogged : Prop :=
  ∀ (i : Instr) (s t : State), exec i s = .next t →
    ∃ new : List WriteRecord, t.cur.writes = s.cur.writes ++ new ∧ new.length ≤ 1 ∧
      ∀ b : Word,
        (∀ r ∈ new, ∀ k < r.bytes.length, ¬ s.sharesStorage (r.address + BitVec.ofNat 16 k) b) →
        t.memRead b = s.memRead b

/-- The bus byte at 0xFFFF is never accessed by the core: two states on FlatBus that differ in that byte only step to
the same outcome, which again differs in that byte only. -/
def Obligations.BusByteAtIeIsHidden : Prop :=
  ∀ (s : State) (m : Memory), s.bus.regions = [] → Memory.wf s.bus.mem → Memory.wf m →
    (∀ a, a ≠ 0xFFFF → Memory.read m a = Memory.read s.bus.mem a) →
    (∀ t, step s = .next t → ∃ m',
      step { s with bus := { s.bus with mem := m } } = .next { t with bus := { t.bus with mem := m' } } ∧
      (∀ a, a ≠ 0xFFFF → Memory.read m' a = Memory.read t.bus.mem a) ∧
      Memory.read m' 0xFFFF = Memory.read m 0xFFFF) ∧
    (∀ r t, s.cpu.fault = none → step s = .fault (.unknownOpcode r t) → ∃ m',
      step { s with bus := { s.bus with mem := m } } =
        .fault (.unknownOpcode r { t with bus := { t.bus with mem := m' } }) ∧
      (∀ a, a ≠ 0xFFFF → Memory.read m' a = Memory.read t.bus.mem a))

/-- The flags follow the flags-effect string of the row's descriptor: for every instruction, a flag whose symbol is `-`
keeps its value, `1` is set and `0` is cleared. -/
def Obligations.FlagsFollowTheDescriptor : Prop :=
  ∀ (i : Instr) (s t : State), i.wellFormed = true → exec i s = .next t →
    (let e := (instrDescriptor i).flags
     ((e.z = .unaffected → t.flagZ = s.flagZ) ∧ (e.z = .set → t.flagZ = true) ∧
      (e.z = .cleared → t.flagZ = false)) ∧
     ((e.n = .unaffected → t.flagN = s.flagN) ∧ (e.n = .set → t.flagN = true) ∧
      (e.n = .cleared → t.flagN = false)) ∧
     ((e.h = .unaffected → t.flagH = s.flagH) ∧ (e.h = .set → t.flagH = true) ∧
      (e.h = .cleared → t.flagH = false)) ∧
     ((e.c = .unaffected → t.flagC = s.flagC) ∧ (e.c = .set → t.flagC = true) ∧
      (e.c = .cleared → t.flagC = false)))

/-- F[3:0] reads as 0, and a write of F stores 0 there whatever value is supplied; bits 7 to 4 take the value. The
8-bit registers are the halves of the pairs: B, D and H the high ones, C, E and L the low ones. Writing a half leaves
the other half and everything else; writing a pair writes both halves. -/
def Obligations.LowNibbleOfFAndRegisterHalves : Prop :=
  ∀ s : State,
    (∀ v, (s.setF v).cpu.f.extractLsb' 0 4 = 0#4 ∧ (s.setF v).cpu.f.extractLsb' 4 4 = v.extractLsb' 4 4) ∧
    s.readF.extractLsb' 0 4 = 0#4 ∧
    (s.readR8 .b = s.cpu.bc.extractLsb' 8 8 ∧ s.readR8 .c = s.cpu.bc.extractLsb' 0 8 ∧
      s.readR8 .d = s.cpu.de.extractLsb' 8 8 ∧ s.readR8 .e = s.cpu.de.extractLsb' 0 8 ∧
      s.readR8 .h = s.cpu.hl.extractLsb' 8 8 ∧ s.readR8 .l = s.cpu.hl.extractLsb' 0 8) ∧
    (∀ r v, r ≠ .mHL → WritesR8 s (s.writeR8 r v) r v s.cpu.f) ∧
    (∀ v, ((s.writeR16 .bc v).readR8 .b = v.extractLsb' 8 8 ∧ (s.writeR16 .bc v).readR8 .c = v.extractLsb' 0 8) ∧
      ((s.writeR16 .de v).readR8 .d = v.extractLsb' 8 8 ∧ (s.writeR16 .de v).readR8 .e = v.extractLsb' 0 8) ∧
      ((s.writeR16 .hl v).readR8 .h = v.extractLsb' 8 8 ∧ (s.writeR16 .hl v).readR8 .l = v.extractLsb' 0 8))

/-- The arbiter: an access to 0xFFFF reads and writes IE and leaves the bus alone; any other address goes to the bus
and leaves IE alone. `MemWrite` of one byte or of two appends its record to the write log and then writes the bytes, the
low one first, at the address and at the next one modulo 2^16. That a read changes nothing and appends nothing is the
type of `memRead`. -/
def Obligations.ArbiterRoutesIe : Prop :=
  ∀ (s : State) (label : WriteLabel) (a w : Word) (v : Byte),
    s.memRead 0xFFFF#16 = s.cpu.ie ∧
    (a ≠ 0xFFFF#16 → s.memRead a = s.bus.read s.draws a.toNat) ∧
    (s.storeByte 0xFFFF#16 v = { s with cpu := { s.cpu with ie := v } }) ∧
    (a ≠ 0xFFFF#16 → s.storeByte a v = { s with bus := s.bus.write a.toNat v }) ∧
    s.memWrite label a [v] =
      ({ s with cur := { s.cur with writes := s.cur.writes ++ [⟨label, a, [v]⟩] } } : State).storeByte a v ∧
    s.memWrite label a (wordBytes w) =
      (({ s with
          cur :=
            { s.cur with
              writes := s.cur.writes ++ [⟨label, a, [w.extractLsb' 0 8, w.extractLsb' 8 8]⟩] } } : State).storeByte
        a (w.extractLsb' 0 8)).storeByte (a + 1#16) (w.extractLsb' 8 8)

/-- Byte order: a 16-bit store of `v` at `a` followed by an 8-bit read of `a` gives bits 7 to 0 and of `a + 1` bits 15 to
8, and a 16-bit read gives `v`, modulo 2^16, wherever both bytes are kept in storage of their own; the other storage
reads as before. On FlatBus that is every address: at 0xFFFF the low byte is in IE and the high byte at 0x0000. -/
def Obligations.LittleEndianStore : Prop :=
  ∀ (s : State) (label : WriteLabel) (a v : Word), Memory.wf s.bus.mem →
    (s.keeps a → s.keeps (a + 1#16) → ¬ s.sharesStorage (a + 1#16) a →
      (s.memWrite label a (wordBytes v)).memRead a = v.extractLsb' 0 8 ∧
      (s.memWrite label a (wordBytes v)).memRead (a + 1#16) = v.extractLsb' 8 8 ∧
      (s.memWrite label a (wordBytes v)).wordAt a = v) ∧
    (∀ b, ¬ s.sharesStorage a b → ¬ s.sharesStorage (a + 1#16) b →
      (s.memWrite label a (wordBytes v)).memRead b = s.memRead b) ∧
    (s.bus.regions = [] → s.keeps a ∧ s.keeps (a + 1#16) ∧ ¬ s.sharesStorage (a + 1#16) a)

/-- The bus: plain storage reads back the last byte written and leaves the others; an unmapped address reads FILL and a
write of it changes nothing; a write of a read-only address changes nothing; both are logged all the same. -/
def Obligations.BusReadsAndWrites : Prop :=
  ∀ (b : Bus) (draw a : Nat) (v : Byte), Memory.wf b.mem →
    (b.kindAt a = .ram → (b.write a v).read draw a = v ∧
      ∀ c, b.kindAt c = .ram → c ≠ a → (b.write a v).read draw c = b.read draw c) ∧
    (b.kindAt a = .unmapped → b.read draw a = 0xFF#8 ∧ b.write a v = b) ∧
    (b.kindAt a = .rom → b.write a v = b) ∧
    (b.regions = [] → b.kindAt a = .ram) ∧
    (∀ (s : State) (label : WriteLabel) (w : Word),
      (s.memWrite label w [v]).cur.writes = s.cur.writes ++ [⟨label, w, [v]⟩])

/-- DMGBus: the table of R134, every address below 0xFFFF (which is IE's), with cartridge RAM present or absent; an
echo is the byte 0x2000 lower; IF reads `0b111 : IF[4:0]` and takes the low five bits of a write. -/
def Obligations.DmgMemoryMap : Prop :=
  ∀ (cartRam : Bool) (a : Nat), a < 0xFFFF →
    (Bus.dmg cartRam).kindAt a =
      (if a ≤ 0x7FFF then .rom
       else if a ≤ 0x9FFF then .ram
       else if a ≤ 0xBFFF then (if cartRam then .ram else .unmapped)
       else if a ≤ 0xDFFF then .ram
       else if a ≤ 0xFDFF then .echo 0x2000
       else if a ≤ 0xFE9F then .ram
       else if a ≤ 0xFEFF then .unmapped
       else if a = 0xFF0F then .interruptFlag
       else if a ≤ 0xFF7F then .device
       else .ram) ∧
    ∀ (b : Bus) (draw : Nat) (v : Byte), b.regions = dmgRegions cartRam →
      (0xE000 ≤ a → a ≤ 0xFDFF → b.read draw a = b.read draw (a - 0x2000) ∧ b.write a v = b.write (a - 0x2000) v) ∧
      (a = 0xFF0F → b.read draw a = 0b111#3 ++ b.ifReg ∧ b.write a v = { b with ifReg := v.extractLsb' 0 5 })

/-- PUSH then POP of the same pair gives the pair back and leaves SP where it was, at every SP of FlatBus: a stack byte
at 0xFFFF is in IE. -/
def Obligations.PushThenPop : Prop :=
  ∀ (i j : Instr) (s : State) (rr : R16Stk), i.form = .push rr → j.form = .pop rr → s.bus.regions = [] →
    Memory.wf s.bus.mem →
    ∃ t u, exec i s = .next t ∧ exec j t = .next u ∧ u.cpu.sp = s.cpu.sp ∧ u.readStk rr = s.readStk rr

/-! ### 8-bit loads -/

/-- LD r,r', LD r,(HL) and LD r,d8: the register takes the value; no flag, no memory, nothing else changes.
Rows: the 56 of `01 r r'` with r not (HL), and LD B, C, D, E, H, L, A with d8. -/
def Obligations.LoadRegister : Prop :=
  ∀ (i : Instr) (s : State) (r : R8) (v : Byte), LoadsR8 i s r v →
    ∃ t, exec i s = .next t ∧ WritesR8 s t r v s.cpu.f ∧ ReadsSame s t

/-- LD (HL),r and LD (HL),d8: the byte is stored at HL with label (HL); no register but IE, at 0xFFFF, changes.
Rows: LD (HL),B to LD (HL),A and LD (HL),d8. -/
def Obligations.StoreAtHL : Prop :=
  ∀ (i : Instr) (s : State) (v : Byte), StoresAtHL i s v → Memory.wf s.bus.mem →
    ∃ t, exec i s = .next t ∧ Stored s t .mHL s.cpu.hl [v] ∧
      t.cpu = { s.cpu with ie := s.ieAfterByte s.cpu.hl v }

/-- The loads of A from memory: A takes the byte at the address, HL is stepped by (HL+) and (HL-); nothing else changes.
Rows: LD A,(BC); LD A,(DE); LD A,(HL+); LD A,(HL-); LD A,(a16); LDH A,(a8); LD A,(C). -/
def Obligations.LoadAccumulator : Prop :=
  ∀ (i : Instr) (s t : State) (a hl : Word), LoadsA i s a hl →
    t = { s with cpu := { s.cpu with a := s.memRead a, hl := hl } } →
    exec i s = .next t ∧ ReadsSame s t

/-- The stores of A: A is stored at the address with the operand's label, HL is stepped by (HL+) and (HL-) after the
store; nothing else changes but IE at 0xFFFF.
Rows: LD (BC),A; LD (DE),A; LD (HL+),A; LD (HL-),A; LD (a16),A; LDH (a8),A; LD (C),A. -/
def Obligations.StoreAccumulator : Prop :=
  ∀ (i : Instr) (s : State) (label : WriteLabel) (a hl : Word), StoresA i s label a hl → Memory.wf s.bus.mem →
    ∃ t, exec i s = .next t ∧ Stored s t label a [s.cpu.a] ∧
      t.cpu = { s.cpu with hl := hl, ie := s.ieAfterByte a s.cpu.a }

/-! ### 16-bit loads, the stack, 16-bit arithmetic -/

/-- LD rr,d16, LD SP,HL, INC rr and DEC rr: the register takes the value, modulo 2^16; no flag, no memory, nothing else
changes. Rows: LD, INC, DEC of BC, DE, HL, SP, and LD SP,HL. -/
def Obligations.SetPair : Prop :=
  ∀ (i : Instr) (s : State) (rr : R16) (v : Word), SetsR16 i s rr v →
    ∃ t, exec i s = .next t ∧ WritesR16 s t rr v ∧ ReadsSame s t

/-- LD (a16),SP: the two bytes of SP at the address, low byte first; at 0xFFFF and 0xFFFE one of them is in IE. -/
def Obligations.StoreSp : Prop :=
  ∀ (i : Instr) (s : State) (a16 : Word), i.form = .ldMa16Sp a16 → Memory.wf s.bus.mem →
    ∃ t, exec i s = .next t ∧
      Stored s t .ma16 a16 [s.cpu.sp.extractLsb' 0 8, s.cpu.sp.extractLsb' 8 8] ∧
      t.cpu = { s.cpu with ie := s.ieAfterWord a16 s.cpu.sp }

/-- PUSH: SP is 2 lower and the pair is stored at the new SP, low byte first, with label PUSH; for AF the pair is A and
F with F[3:0] = 0. Rows: PUSH BC, DE, HL, AF. -/
def Obligations.PushStoresPair : Prop :=
  ∀ (i : Instr) (s : State) (rr : R16Stk) (v : Word), i.form = .push rr → Memory.wf s.bus.mem →
    v = (match rr with
      | .bc => s.cpu.bc | .de => s.cpu.de | .hl => s.cpu.hl | .af => s.cpu.a ++ (s.cpu.f &&& 0xF0#8)) →
    ∃ t, exec i s = .next t ∧ Stored s t .push (s.cpu.sp - 2#16) [v.extractLsb' 0 8, v.extractLsb' 8 8] ∧
      t.cpu = { s.cpu with sp := s.cpu.sp - 2#16, ie := s.ieAfterWord (s.cpu.sp - 2#16) v }

/-- POP: the pair takes the word at SP and SP is 2 higher; POP AF writes A and F[7:4], F[3:0] stays 0; nothing else
changes. Rows: POP BC, DE, HL, AF. -/
def Obligations.PopLoadsPair : Prop :=
  ∀ (i : Instr) (s t : State) (rr : R16Stk), i.form = .pop rr →
    t = { s with cpu :=
      (match rr with
       | .bc => { s.cpu with bc := s.wordAt s.cpu.sp, sp := s.cpu.sp + 2#16 }
       | .de => { s.cpu with de := s.wordAt s.cpu.sp, sp := s.cpu.sp + 2#16 }
       | .hl => { s.cpu with hl := s.wordAt s.cpu.sp, sp := s.cpu.sp + 2#16 }
       | .af =>
         { s.cpu with
           a := s.memRead (s.cpu.sp + 1#16)
           f := s.memRead s.cpu.sp &&& 0xF0#8
           sp := s.cpu.sp + 2#16 }) } →
    exec i s = .next t ∧ ReadsSame s t

/-- LD HL,SP+e8 and ADD SP,e8: the sum of SP and the signed byte, modulo 2^16, to HL or to SP; Z and N cleared, H and C
from the unsigned sum of SP's low byte and the byte; nothing else changes. -/
def Obligations.SpPlusDisplacement : Prop :=
  ∀ (i : Instr) (s t : State) (e8 : Byte) (sum : Word) (f : Byte),
    sum = BitVec.ofInt 16 (s.cpu.sp.toNat + e8.toInt) →
    f = flagByte false false (decide (s.cpu.sp.toNat % 16 + e8.toNat % 16 > 15))
      (decide (s.cpu.sp.toNat % 256 + e8.toNat > 255)) →
    (i.form = .ldHlSp e8 ∧ t = { s with cpu := { s.cpu with hl := sum, f := f } }) ∨
      (i.form = .addSp e8 ∧ t = { s with cpu := { s.cpu with sp := sum, f := f } }) →
    exec i s = .next t ∧ ReadsSame s t

/-- ADD HL,rr: the sum modulo 2^16; N cleared, H the carry out of bit 11, C the carry out of bit 15, Z unchanged;
nothing else changes. Rows: ADD HL with BC, DE, HL, SP. -/
def Obligations.AddToHL : Prop :=
  ∀ (i : Instr) (s t : State) (rr : R16) (v : Word), i.form = .addHl rr →
    v = (match rr with | .bc => s.cpu.bc | .de => s.cpu.de | .hl => s.cpu.hl | .sp => s.cpu.sp) →
    t = { s with cpu :=
      { s.cpu with
        hl := BitVec.ofNat 16 (s.cpu.hl.toNat + v.toNat)
        f := flagByte s.flagZ false (decide (s.cpu.hl.toNat % 4096 + v.toNat % 4096 > 4095))
          (decide (s.cpu.hl.toNat + v.toNat > 65535)) } } →
    exec i s = .next t ∧ ReadsSame s t

/-! ### 8-bit arithmetic and logic -/

/-- ADD and ADC, every form: A takes the sum modulo 256 with the carry-in of ADC; Z of the result, N cleared, H the
carry out of bit 3, C the carry out of bit 7; nothing else changes. Rows: ADD A and ADC A with B, C, D, E, H, L, (HL), A
and d8. -/
def Obligations.AddAndAdc : Prop :=
  ∀ (i : Instr) (s t : State) (v : Byte) (cin : Nat),
    (HasAluOperand i .add s v ∧ cin = 0) ∨ (HasAluOperand i .adc s v ∧ cin = s.flagC.toNat) →
    t = { s with cpu :=
      { s.cpu with
        a := BitVec.ofNat 8 (s.cpu.a.toNat + v.toNat + cin)
        f := flagByte (decide ((s.cpu.a.toNat + v.toNat + cin) % 256 = 0)) false
          (decide (s.cpu.a.toNat % 16 + v.toNat % 16 + cin > 15))
          (decide (s.cpu.a.toNat + v.toNat + cin > 255)) } } →
    exec i s = .next t ∧ ReadsSame s t

/-- SUB, SBC and CP, every form: the difference modulo 256 with the borrow-in of SBC, to A but for CP; Z of the
difference, N set, H the borrow from bit 4, C the borrow out of bit 7; nothing else changes. Rows: SUB, SBC A and CP
with B, C, D, E, H, L, (HL), A and d8. -/
def Obligations.SubSbcAndCp : Prop :=
  ∀ (i : Instr) (s t : State) (v res : Byte) (bin : Nat),
    (HasAluOperand i .sub s v ∧ bin = 0 ∧ t.cpu.a = res) ∨
      (HasAluOperand i .sbc s v ∧ bin = s.flagC.toNat ∧ t.cpu.a = res) ∨
      (HasAluOperand i .cp s v ∧ bin = 0 ∧ t.cpu.a = s.cpu.a) →
    res = BitVec.ofInt 8 (s.cpu.a.toNat - v.toNat - bin) →
    t = { s with cpu :=
      { s.cpu with
        a := t.cpu.a
        f := flagByte (decide (res = 0#8)) true (decide (s.cpu.a.toNat % 16 < v.toNat % 16 + bin))
          (decide (s.cpu.a.toNat < v.toNat + bin)) } } →
    exec i s = .next t ∧ ReadsSame s t

/-- AND, XOR and OR, every form: bit by bit; Z of the result, N and C cleared, H set by AND and cleared by the others;
nothing else changes. Rows: AND, XOR and OR with B, C, D, E, H, L, (HL), A and d8. -/
def Obligations.AndXorOr : Prop :=
  ∀ (i : Instr) (s : State) (v : Byte) (op : AluOp) (bit : Bool → Bool → Bool) (h : Bool),
    (op = .and ∧ bit = and ∧ h = true) ∨ (op = .xor ∧ bit = xor ∧ h = false) ∨
      (op = .or ∧ bit = or ∧ h = false) →
    HasAluOperand i op s v →
    ∃ t, exec i s = .next t ∧ (∀ k < 8, t.cpu.a.getLsbD k = bit (s.cpu.a.getLsbD k) (v.getLsbD k)) ∧
      t = { s with cpu :=
        { s.cpu with a := t.cpu.a, f := flagByte (decide (t.cpu.a = 0#8)) false h false } } ∧
      ReadsSame s t

/-- INC r and DEC r: the register one up or down, modulo 256; Z of the result, N cleared by INC and set by DEC, H when
the old low nibble was 15 for INC and 0 for DEC, C unchanged; nothing else changes. Rows: INC and DEC of B, C, D, E, H,
L, A. -/
def Obligations.IncDecRegister : Prop :=
  ∀ (i : Instr) (s : State) (r : R8), r ≠ .mHL →
    (i.form = .inc r → ∃ t, exec i s = .next t ∧ ReadsSame s t ∧
      WritesR8 s t r (s.readR8 r + 1#8)
        (flagByte (decide (s.readR8 r = 0xFF#8)) false (decide ((s.readR8 r).toNat % 16 = 15)) s.flagC)) ∧
    (i.form = .dec r → ∃ t, exec i s = .next t ∧ ReadsSame s t ∧
      WritesR8 s t r (s.readR8 r - 1#8)
        (flagByte (decide (s.readR8 r = 0x01#8)) true (decide ((s.readR8 r).toNat % 16 = 0)) s.flagC))

/-- INC (HL) and DEC (HL): the byte at HL is read once and stored once, with the flags of INC r and DEC r; no register
but F changes, and IE at 0xFFFF. -/
def Obligations.IncDecAtHL : Prop :=
  ∀ (i : Instr) (s : State) (v : Byte), Memory.wf s.bus.mem → v = s.memRead s.cpu.hl →
    (i.form = .inc .mHL → ∃ t, exec i s = .next t ∧ Stored s t .mHL s.cpu.hl [v + 1#8] ∧
      t.cpu =
        { s.cpu with
          f := flagByte (decide (v = 0xFF#8)) false (decide (v.toNat % 16 = 15)) s.flagC
          ie := s.ieAfterByte s.cpu.hl (v + 1#8) }) ∧
    (i.form = .dec .mHL → ∃ t, exec i s = .next t ∧ Stored s t .mHL s.cpu.hl [v - 1#8] ∧
      t.cpu =
        { s.cpu with
          f := flagByte (decide (v = 0x01#8)) true (decide (v.toNat % 16 = 0)) s.flagC
          ie := s.ieAfterByte s.cpu.hl (v - 1#8) })

/-! ### Accumulator and flags -/

/-- RLCA, RRCA, RLA and RRA: A by bits, C the bit that left, Z, N and H cleared even for a zero result; nothing else
changes. -/
def Obligations.RotateAccumulator : Prop :=
  ∀ (i : Instr) (s : State) (op : RotOp),
    (i.form = .rlca ∧ op = .rlc) ∨ (i.form = .rrca ∧ op = .rrc) ∨ (i.form = .rla ∧ op = .rl) ∨
      (i.form = .rra ∧ op = .rr) →
    ∃ t res c, exec i s = .next t ∧ RotatesTo op s.cpu.a s.flagC res c ∧
      t = { s with cpu := { s.cpu with a := res, f := flagByte false false false c } } ∧ ReadsSame s t

/-- DAA: for every A and every N, H and C, the two corrections on the conditions of R414, added or subtracted by N; Z of
the result, N unchanged, H cleared, C set when the 0x60 correction applies and kept else; nothing else changes. -/
def Obligations.DaaCorrectsByFlags : Prop :=
  ∀ (i : Instr) (s t : State) (low high : Bool) (adj : Nat) (res : Byte), i.form = .daa →
    low = (s.flagH || (!s.flagN && decide (s.cpu.a.toNat % 16 > 9))) →
    high = (s.flagC || (!s.flagN && decide (s.cpu.a.toNat > 0x99))) →
    adj = (if low then 0x06 else 0) + (if high then 0x60 else 0) →
    res = BitVec.ofNat 8 (if s.flagN then s.cpu.a.toNat + 256 - adj else s.cpu.a.toNat + adj) →
    t = { s with cpu :=
      { s.cpu with
        a := res
        f := flagByte (decide (res = 0#8)) s.flagN false (s.flagC || high) } } →
    exec i s = .next t ∧ ReadsSame s t

/-- What DAA is for: after ADD of two BCD bytes it leaves the BCD of their decimal sum modulo 100 with C the decimal
carry, after SUB the BCD of their decimal difference modulo 100 with C the decimal borrow. -/
def Obligations.DaaMakesBcd : Prop :=
  ∀ (i j : Instr) (s : State) (v : Byte), j.form = .daa → isBcd s.cpu.a → isBcd v →
    (HasAluOperand i .add s v → ∃ t u, exec i s = .next t ∧ exec j t = .next u ∧ isBcd u.cpu.a ∧
      bcdValue u.cpu.a = (bcdValue s.cpu.a + bcdValue v) % 100 ∧
      u.flagC = decide (bcdValue s.cpu.a + bcdValue v > 99)) ∧
    (HasAluOperand i .sub s v → ∃ t u, exec i s = .next t ∧ exec j t = .next u ∧ isBcd u.cpu.a ∧
      bcdValue u.cpu.a = (bcdValue s.cpu.a + 100 - bcdValue v) % 100 ∧
      u.flagC = decide (bcdValue s.cpu.a < bcdValue v))

/-- CPL, SCF, CCF and NOP: CPL complements A and sets N and H; SCF sets C and CCF complements it, both clear N and H;
NOP changes nothing at all; nothing else changes. -/
def Obligations.CplScfCcfNop : Prop :=
  ∀ (i : Instr) (s : State),
    (i.form = .cpl → ∃ t, exec i s = .next t ∧ ReadsSame s t ∧ (∀ k < 8, t.cpu.a.getLsbD k = !s.cpu.a.getLsbD k) ∧
      t = { s with cpu := { s.cpu with a := t.cpu.a, f := flagByte s.flagZ true true s.flagC } }) ∧
    (i.form = .scf → ∃ t, exec i s = .next t ∧ ReadsSame s t ∧
      t = { s with cpu := { s.cpu with f := flagByte s.flagZ false false true } }) ∧
    (i.form = .ccf → ∃ t, exec i s = .next t ∧ ReadsSame s t ∧
      t = { s with cpu := { s.cpu with f := flagByte s.flagZ false false (!s.flagC) } }) ∧
    (i.form = .nop → exec i s = .next s)

/-! ### Control transfer -/

/-- The jumps. JP takes the address, JP HL the value of HL, JR adds the signed byte to the address after the
instruction, modulo 2^16; the conditional forms do so when their condition holds, leave PC else, and report taken or
not taken. No register but PC, no flag and no memory changes. Rows: JP a16, JP HL, JR e8, JP and JR with NZ, Z, NC,
C. -/
def Obligations.JumpsWritePc : Prop :=
  ∀ (i : Instr) (s : State),
    (∀ a16, i.form = .jp a16 → ∃ t, exec i s = .next t ∧ ReadsSame s t ∧
      t = { s with cpu := { s.cpu with pc := a16 } }) ∧
    (i.form = .jpHL → ∃ t, exec i s = .next t ∧ ReadsSame s t ∧
      t = { s with cpu := { s.cpu with pc := s.cpu.hl } }) ∧
    (∀ e8, i.form = .jr e8 → ∃ t, exec i s = .next t ∧ ReadsSame s t ∧
      t = { s with cpu := { s.cpu with pc := BitVec.ofInt 16 (s.cpu.pc.toNat + e8.toInt) } }) ∧
    (∀ cc a16, i.form = .jpCond cc a16 → ∃ t, exec i s = .next t ∧ ReadsSame s t ∧
      t =
        { s with
          cpu := { s.cpu with pc := if s.cond cc then a16 else s.cpu.pc }
          cur := { s.cur with taken := s.cond cc } }) ∧
    (∀ cc e8, i.form = .jrCond cc e8 → ∃ t, exec i s = .next t ∧ ReadsSame s t ∧
      t =
        { s with
          cpu :=
            { s.cpu with
              pc := if s.cond cc then BitVec.ofInt 16 (s.cpu.pc.toNat + e8.toInt) else s.cpu.pc }
          cur := { s.cur with taken := s.cond cc } }) ∧
    (s.cond .nz = !s.cpu.f.getLsbD 7 ∧ s.cond .z = s.cpu.f.getLsbD 7 ∧ s.cond .nc = !s.cpu.f.getLsbD 4 ∧
      s.cond .c = s.cpu.f.getLsbD 4)

/-- CALL, CALL cc and RST: the address after the instruction is pushed, low byte first, and PC takes the target; a
CALL cc that is not taken changes nothing but the report. Rows: CALL a16, CALL with NZ, Z, NC, C, and RST 00H to 38H. -/
def Obligations.CallsAndRestarts : Prop :=
  ∀ (i : Instr) (s : State), Memory.wf s.bus.mem →
    (∀ a16, i.form = .call a16 → ∃ t, exec i s = .next t ∧
      Stored s t .call (s.cpu.sp - 2#16) [s.cpu.pc.extractLsb' 0 8, s.cpu.pc.extractLsb' 8 8] ∧
      t.cpu =
        { s.cpu with
          pc := a16, sp := s.cpu.sp - 2#16, ie := s.ieAfterWord (s.cpu.sp - 2#16) s.cpu.pc }) ∧
    (∀ cc a16, i.form = .callCond cc a16 → s.cond cc = true → ∃ t, exec i s = .next t ∧
      Stored { s with cur := { s.cur with taken := true } } t .call (s.cpu.sp - 2#16)
        [s.cpu.pc.extractLsb' 0 8, s.cpu.pc.extractLsb' 8 8] ∧
      t.cpu =
        { s.cpu with
          pc := a16, sp := s.cpu.sp - 2#16, ie := s.ieAfterWord (s.cpu.sp - 2#16) s.cpu.pc }) ∧
    (∀ cc a16, i.form = .callCond cc a16 → s.cond cc = false →
      ∃ t, exec i s = .next t ∧ ReadsSame s t ∧ t = { s with cur := { s.cur with taken := false } }) ∧
    (∀ n, i.form = .rst n → ∃ t, exec i s = .next t ∧
      Stored s t .rst (s.cpu.sp - 2#16) [s.cpu.pc.extractLsb' 0 8, s.cpu.pc.extractLsb' 8 8] ∧
      t.cpu =
        { s.cpu with
          pc := BitVec.ofNat 16 (n.toNat * 8)
          sp := s.cpu.sp - 2#16
          ie := s.ieAfterWord (s.cpu.sp - 2#16) s.cpu.pc })

/-- RET, RET cc and RETI: PC takes the word at SP and SP is 2 higher; RETI sets IME at once and clears IME_SCHEDULED; a
RET cc that is not taken changes neither SP nor PC; no other register, no flag and no memory changes. Rows: RET, RETI,
RET with NZ, Z, NC, C. -/
def Obligations.ReturnsPopPc : Prop :=
  ∀ (i : Instr) (s : State),
    (i.form = .ret → ∃ t, exec i s = .next t ∧ ReadsSame s t ∧
      t = { s with cpu := { s.cpu with pc := s.wordAt s.cpu.sp, sp := s.cpu.sp + 2#16 } }) ∧
    (∀ cc, i.form = .retCond cc → s.cond cc = true → ∃ t, exec i s = .next t ∧ ReadsSame s t ∧
      t =
        { s with
          cpu := { s.cpu with pc := s.wordAt s.cpu.sp, sp := s.cpu.sp + 2#16 }
          cur := { s.cur with taken := true } }) ∧
    (∀ cc, i.form = .retCond cc → s.cond cc = false → ∃ t, exec i s = .next t ∧ ReadsSame s t ∧
      t = { s with cur := { s.cur with taken := false } }) ∧
    (i.form = .reti → ∃ t, exec i s = .next t ∧ ReadsSame s t ∧
      t = { s with cpu :=
        { s.cpu with
          pc := s.wordAt s.cpu.sp, sp := s.cpu.sp + 2#16, ime := true, imeScheduled := false } })

/-! ### System -/

/-- HALT: with no pending-enabled interrupt HALTED is set, whatever IME is; with one and IME = 1 nothing; with one and
IME = 0 HALT_BUG_ARMED is set if the parameter HALT_BUG is true, and nothing else; nothing else changes. -/
def Obligations.HaltCases : Prop :=
  ∀ (i : Instr) (s : State), i.form = .halt →
    (s.cpu.ie.extractLsb' 0 5 &&& s.cur.irq = 0#5 → ∃ t, exec i s = .next t ∧ ReadsSame s t ∧
      t = { s with cpu := { s.cpu with halted := true } }) ∧
    (s.cpu.ie.extractLsb' 0 5 &&& s.cur.irq ≠ 0#5 → s.cpu.ime = true → exec i s = .next s) ∧
    (s.cpu.ie.extractLsb' 0 5 &&& s.cur.irq ≠ 0#5 → s.cpu.ime = false → s.params.haltBug = true →
      ∃ t, exec i s = .next t ∧ ReadsSame s t ∧ t = { s with cpu := { s.cpu with haltBugArmed := true } }) ∧
    (s.cpu.ie.extractLsb' 0 5 &&& s.cur.irq ≠ 0#5 → s.cpu.ime = false → s.params.haltBug = false →
      exec i s = .next s)

/-- STOP sets STOPPED, whatever its second byte is; DI clears IME and IME_SCHEDULED; EI sets IME_SCHEDULED and not IME;
nothing else changes. -/
def Obligations.StopDiEi : Prop :=
  ∀ (i : Instr) (s : State),
    (∀ ignored, i.form = .stop ignored → ∃ t, exec i s = .next t ∧ ReadsSame s t ∧
      t = { s with cpu := { s.cpu with stopped := true } }) ∧
    (i.form = .di → ∃ t, exec i s = .next t ∧ ReadsSame s t ∧
      t = { s with cpu := { s.cpu with ime := false, imeScheduled := false } }) ∧
    (i.form = .ei → ∃ t, exec i s = .next t ∧ ReadsSame s t ∧
      t = { s with cpu := { s.cpu with imeScheduled := true } })

/-- The eleven INVALID rows end in the fault UnknownOpcode on every path, with the opcode and the address of the fetch,
the CPU state of step entry but PC, HALT_BUG_ARMED and FAULT, and memory untouched. -/
def Obligations.InvalidRowsFault : Prop :=
  ∀ (i : Instr) (s : State) (op : Byte), i.form = .invalid op →
    ∃ t, exec i s = .fault (.unknownOpcode ⟨false, op, s.cur.fetchAddr⟩ t) ∧
      t.cpu =
        { s.cur.before with
          pc := s.cpu.pc
          haltBugArmed := s.cpu.haltBugArmed
          fault := some ⟨false, op, s.cur.fetchAddr⟩ } ∧
      t.bus = s.bus ∧ t.params = s.params ∧ t.cur.writes = [] ∧ t.snapshot = none

/-- The row PREFIX CB has no effect of its own: it fetches the byte at PC as the opcode of the CB-prefixed table,
notes it, and ends in the next state of the CB instruction that byte names. That the row's constructor has this
meaning is the model's choice (DEDUCED, log entry 2): R485 says that the row is never the executed descriptor, and no
step reaches it. -/
def Obligations.PrefixRunsTheCbInstruction : Prop :=
  ∀ (i : Instr) (s u : State) (op : Byte), i.form = .prefixCB → op = s.memRead s.cpu.pc →
    u = { s with cpu := { s.cpu with pc := s.cpu.pc + 1#16, ir := op, prefixed := true } } →
    ∃ t, exec i s = .next t ∧ exec (decodeCB op) u = .next t

/-! ### CB-prefixed instructions -/

/-- RLC, RRC, RL, RR, SLA, SRA, SWAP and SRL of a register: the register by bits, Z of the result, N and H cleared, C
the bit that left (0 for SWAP); nothing else changes. Rows: those eight with B, C, D, E, H, L, A. -/
def Obligations.CbRotateRegister : Prop :=
  ∀ (i : Instr) (s : State) (op : RotOp) (r : R8), i.form = .rot op r → r ≠ .mHL →
    ∃ t res c, exec i s = .next t ∧ RotatesTo op (s.readR8 r) s.flagC res c ∧
      WritesR8 s t r res (flagByte (decide (res = 0#8)) false false c) ∧ ReadsSame s t

/-- The same eight of (HL): the byte at HL is read once and stored once with label (HL); no register but F changes, and
IE at 0xFFFF. -/
def Obligations.CbRotateAtHL : Prop :=
  ∀ (i : Instr) (s : State) (op : RotOp), i.form = .rot op .mHL → Memory.wf s.bus.mem →
    ∃ t res c, exec i s = .next t ∧ RotatesTo op (s.memRead s.cpu.hl) s.flagC res c ∧
      Stored s t .mHL s.cpu.hl [res] ∧
      t.cpu =
        { s.cpu with
          f := flagByte (decide (res = 0#8)) false false c
          ie := s.ieAfterByte s.cpu.hl res }

/-- BIT b: Z is the complement of the tested bit, N cleared, H set, C unchanged; nothing is written back, of a register
or of memory, and the write log stays as it is. Rows: BIT with every operand and every bit. -/
def Obligations.BitTestsOneBit : Prop :=
  ∀ (i : Instr) (s t : State) (b : BitVec 3) (r : R8), i.form = .bit b r →
    t = { s with cpu :=
      { s.cpu with f := flagByte (!(s.readR8 r).getLsbD b.toNat) false true s.flagC } } →
    exec i s = .next t ∧ ReadsSame s t

/-- RES b and SET b of a register: that bit cleared or set, the other bits, the flags and everything else as before.
Rows: RES and SET with B, C, D, E, H, L, A and every bit. -/
def Obligations.ResetSetRegister : Prop :=
  ∀ (i : Instr) (s : State) (b : BitVec 3) (r : R8) (val : Bool), r ≠ .mHL →
    (i.form = .res b r ∧ val = false) ∨ (i.form = .set b r ∧ val = true) →
    ∃ t res, exec i s = .next t ∧
      (∀ k < 8, res.getLsbD k = if k = b.toNat then val else (s.readR8 r).getLsbD k) ∧
      WritesR8 s t r res s.cpu.f ∧ ReadsSame s t

/-- RES b,(HL) and SET b,(HL): the byte at HL with that bit cleared or set is stored with label (HL), also when the bit
already was so; no register changes but IE at 0xFFFF, and no flag. -/
def Obligations.ResetSetAtHL : Prop :=
  ∀ (i : Instr) (s : State) (b : BitVec 3) (val : Bool), Memory.wf s.bus.mem →
    (i.form = .res b .mHL ∧ val = false) ∨ (i.form = .set b .mHL ∧ val = true) →
    ∃ t res, exec i s = .next t ∧
      (∀ k < 8, res.getLsbD k = if k = b.toNat then val else (s.memRead s.cpu.hl).getLsbD k) ∧
      Stored s t .mHL s.cpu.hl [res] ∧ t.cpu = { s.cpu with ie := s.ieAfterByte s.cpu.hl res }

end
end

