-- ==== Sys2Proof/Laws/State.lean ====
section
/-! SUPPORT. For each update of the state and each field of the state, what the field is after the update. -/

namespace Sys2Proof.Machine

/-! ### Updates of one field of the CPU state -/

@[simp] theorem State.setPc_cpu (s : State) (v : Word) : (s.setPc v).cpu = { s.cpu with pc := v } := rfl
@[simp] theorem State.setPc_bus (s : State) (v : Word) : (s.setPc v).bus = s.bus := rfl
@[simp] theorem State.setPc_params (s : State) (v : Word) : (s.setPc v).params = s.params := rfl
@[simp] theorem State.setPc_inputs (s : State) (v : Word) : (s.setPc v).inputs = s.inputs := rfl
@[simp] theorem State.setPc_draws (s : State) (v : Word) : (s.setPc v).draws = s.draws := rfl
@[simp] theorem State.setPc_stepped (s : State) (v : Word) : (s.setPc v).stepped = s.stepped := rfl
@[simp] theorem State.setPc_cur (s : State) (v : Word) : (s.setPc v).cur = s.cur := rfl
@[simp] theorem State.setPc_snapshot (s : State) (v : Word) : (s.setPc v).snapshot = s.snapshot := rfl

@[simp] theorem State.setSp_cpu (s : State) (v : Word) : (s.setSp v).cpu = { s.cpu with sp := v } := rfl
@[simp] theorem State.setSp_bus (s : State) (v : Word) : (s.setSp v).bus = s.bus := rfl
@[simp] theorem State.setSp_params (s : State) (v : Word) : (s.setSp v).params = s.params := rfl
@[simp] theorem State.setSp_inputs (s : State) (v : Word) : (s.setSp v).inputs = s.inputs := rfl
@[simp] theorem State.setSp_draws (s : State) (v : Word) : (s.setSp v).draws = s.draws := rfl
@[simp] theorem State.setSp_stepped (s : State) (v : Word) : (s.setSp v).stepped = s.stepped := rfl
@[simp] theorem State.setSp_cur (s : State) (v : Word) : (s.setSp v).cur = s.cur := rfl
@[simp] theorem State.setSp_snapshot (s : State) (v : Word) : (s.setSp v).snapshot = s.snapshot := rfl

@[simp] theorem State.setA_cpu (s : State) (v : Byte) : (s.setA v).cpu = { s.cpu with a := v } := rfl
@[simp] theorem State.setA_bus (s : State) (v : Byte) : (s.setA v).bus = s.bus := rfl
@[simp] theorem State.setA_params (s : State) (v : Byte) : (s.setA v).params = s.params := rfl
@[simp] theorem State.setA_inputs (s : State) (v : Byte) : (s.setA v).inputs = s.inputs := rfl
@[simp] theorem State.setA_draws (s : State) (v : Byte) : (s.setA v).draws = s.draws := rfl
@[simp] theorem State.setA_stepped (s : State) (v : Byte) : (s.setA v).stepped = s.stepped := rfl
@[simp] theorem State.setA_cur (s : State) (v : Byte) : (s.setA v).cur = s.cur := rfl
@[simp] theorem State.setA_snapshot (s : State) (v : Byte) : (s.setA v).snapshot = s.snapshot := rfl

@[simp] theorem State.setF_cpu (s : State) (v : Byte) : (s.setF v).cpu = { s.cpu with f := v &&& 0xF0#8 } := rfl
@[simp] theorem State.setF_bus (s : State) (v : Byte) : (s.setF v).bus = s.bus := rfl
@[simp] theorem State.setF_params (s : State) (v : Byte) : (s.setF v).params = s.params := rfl
@[simp] theorem State.setF_inputs (s : State) (v : Byte) : (s.setF v).inputs = s.inputs := rfl
@[simp] theorem State.setF_draws (s : State) (v : Byte) : (s.setF v).draws = s.draws := rfl
@[simp] theorem State.setF_stepped (s : State) (v : Byte) : (s.setF v).stepped = s.stepped := rfl
@[simp] theorem State.setF_cur (s : State) (v : Byte) : (s.setF v).cur = s.cur := rfl
@[simp] theorem State.setF_snapshot (s : State) (v : Byte) : (s.setF v).snapshot = s.snapshot := rfl

@[simp] theorem State.setBc_cpu (s : State) (v : Word) : (s.setBc v).cpu = { s.cpu with bc := v } := rfl
@[simp] theorem State.setBc_bus (s : State) (v : Word) : (s.setBc v).bus = s.bus := rfl
@[simp] theorem State.setBc_params (s : State) (v : Word) : (s.setBc v).params = s.params := rfl
@[simp] theorem State.setBc_inputs (s : State) (v : Word) : (s.setBc v).inputs = s.inputs := rfl
@[simp] theorem State.setBc_draws (s : State) (v : Word) : (s.setBc v).draws = s.draws := rfl
@[simp] theorem State.setBc_stepped (s : State) (v : Word) : (s.setBc v).stepped = s.stepped := rfl
@[simp] theorem State.setBc_cur (s : State) (v : Word) : (s.setBc v).cur = s.cur := rfl
@[simp] theorem State.setBc_snapshot (s : State) (v : Word) : (s.setBc v).snapshot = s.snapshot := rfl

@[simp] theorem State.setDe_cpu (s : State) (v : Word) : (s.setDe v).cpu = { s.cpu with de := v } := rfl
@[simp] theorem State.setDe_bus (s : State) (v : Word) : (s.setDe v).bus = s.bus := rfl
@[simp] theorem State.setDe_params (s : State) (v : Word) : (s.setDe v).params = s.params := rfl
@[simp] theorem State.setDe_inputs (s : State) (v : Word) : (s.setDe v).inputs = s.inputs := rfl
@[simp] theorem State.setDe_draws (s : State) (v : Word) : (s.setDe v).draws = s.draws := rfl
@[simp] theorem State.setDe_stepped (s : State) (v : Word) : (s.setDe v).stepped = s.stepped := rfl
@[simp] theorem State.setDe_cur (s : State) (v : Word) : (s.setDe v).cur = s.cur := rfl
@[simp] theorem State.setDe_snapshot (s : State) (v : Word) : (s.setDe v).snapshot = s.snapshot := rfl

@[simp] theorem State.setHl_cpu (s : State) (v : Word) : (s.setHl v).cpu = { s.cpu with hl := v } := rfl
@[simp] theorem State.setHl_bus (s : State) (v : Word) : (s.setHl v).bus = s.bus := rfl
@[simp] theorem State.setHl_params (s : State) (v : Word) : (s.setHl v).params = s.params := rfl
@[simp] theorem State.setHl_inputs (s : State) (v : Word) : (s.setHl v).inputs = s.inputs := rfl
@[simp] theorem State.setHl_draws (s : State) (v : Word) : (s.setHl v).draws = s.draws := rfl
@[simp] theorem State.setHl_stepped (s : State) (v : Word) : (s.setHl v).stepped = s.stepped := rfl
@[simp] theorem State.setHl_cur (s : State) (v : Word) : (s.setHl v).cur = s.cur := rfl
@[simp] theorem State.setHl_snapshot (s : State) (v : Word) : (s.setHl v).snapshot = s.snapshot := rfl

@[simp] theorem State.setIe_cpu (s : State) (v : Byte) : (s.setIe v).cpu = { s.cpu with ie := v } := rfl
@[simp] theorem State.setIe_bus (s : State) (v : Byte) : (s.setIe v).bus = s.bus := rfl
@[simp] theorem State.setIe_params (s : State) (v : Byte) : (s.setIe v).params = s.params := rfl
@[simp] theorem State.setIe_inputs (s : State) (v : Byte) : (s.setIe v).inputs = s.inputs := rfl
@[simp] theorem State.setIe_draws (s : State) (v : Byte) : (s.setIe v).draws = s.draws := rfl
@[simp] theorem State.setIe_stepped (s : State) (v : Byte) : (s.setIe v).stepped = s.stepped := rfl
@[simp] theorem State.setIe_cur (s : State) (v : Byte) : (s.setIe v).cur = s.cur := rfl
@[simp] theorem State.setIe_snapshot (s : State) (v : Byte) : (s.setIe v).snapshot = s.snapshot := rfl

@[simp] theorem State.setIme_cpu (s : State) (v : Bool) : (s.setIme v).cpu = { s.cpu with ime := v } := rfl
@[simp] theorem State.setIme_bus (s : State) (v : Bool) : (s.setIme v).bus = s.bus := rfl
@[simp] theorem State.setIme_params (s : State) (v : Bool) : (s.setIme v).params = s.params := rfl
@[simp] theorem State.setIme_inputs (s : State) (v : Bool) : (s.setIme v).inputs = s.inputs := rfl
@[simp] theorem State.setIme_draws (s : State) (v : Bool) : (s.setIme v).draws = s.draws := rfl
@[simp] theorem State.setIme_stepped (s : State) (v : Bool) : (s.setIme v).stepped = s.stepped := rfl
@[simp] theorem State.setIme_cur (s : State) (v : Bool) : (s.setIme v).cur = s.cur := rfl
@[simp] theorem State.setIme_snapshot (s : State) (v : Bool) : (s.setIme v).snapshot = s.snapshot := rfl

@[simp] theorem State.setImeScheduled_cpu (s : State) (v : Bool) : (s.setImeScheduled v).cpu = { s.cpu with imeScheduled := v } := rfl
@[simp] theorem State.setImeScheduled_bus (s : State) (v : Bool) : (s.setImeScheduled v).bus = s.bus := rfl
@[simp] theorem State.setImeScheduled_params (s : State) (v : Bool) : (s.setImeScheduled v).params = s.params := rfl
@[simp] theorem State.setImeScheduled_inputs (s : State) (v : Bool) : (s.setImeScheduled v).inputs = s.inputs := rfl
@[simp] theorem State.setImeScheduled_draws (s : State) (v : Bool) : (s.setImeScheduled v).draws = s.draws := rfl
@[simp] theorem State.setImeScheduled_stepped (s : State) (v : Bool) : (s.setImeScheduled v).stepped = s.stepped := rfl
@[simp] theorem State.setImeScheduled_cur (s : State) (v : Bool) : (s.setImeScheduled v).cur = s.cur := rfl
@[simp] theorem State.setImeScheduled_snapshot (s : State) (v : Bool) : (s.setImeScheduled v).snapshot = s.snapshot := rfl

@[simp] theorem State.setHalted_cpu (s : State) (v : Bool) : (s.setHalted v).cpu = { s.cpu with halted := v } := rfl
@[simp] theorem State.setHalted_bus (s : State) (v : Bool) : (s.setHalted v).bus = s.bus := rfl
@[simp] theorem State.setHalted_params (s : State) (v : Bool) : (s.setHalted v).params = s.params := rfl
@[simp] theorem State.setHalted_inputs (s : State) (v : Bool) : (s.setHalted v).inputs = s.inputs := rfl
@[simp] theorem State.setHalted_draws (s : State) (v : Bool) : (s.setHalted v).draws = s.draws := rfl
@[simp] theorem State.setHalted_stepped (s : State) (v : Bool) : (s.setHalted v).stepped = s.stepped := rfl
@[simp] theorem State.setHalted_cur (s : State) (v : Bool) : (s.setHalted v).cur = s.cur := rfl
@[simp] theorem State.setHalted_snapshot (s : State) (v : Bool) : (s.setHalted v).snapshot = s.snapshot := rfl

@[simp] theorem State.setStopped_cpu (s : State) (v : Bool) : (s.setStopped v).cpu = { s.cpu with stopped := v } := rfl
@[simp] theorem State.setStopped_bus (s : State) (v : Bool) : (s.setStopped v).bus = s.bus := rfl
@[simp] theorem State.setStopped_params (s : State) (v : Bool) : (s.setStopped v).params = s.params := rfl
@[simp] theorem State.setStopped_inputs (s : State) (v : Bool) : (s.setStopped v).inputs = s.inputs := rfl
@[simp] theorem State.setStopped_draws (s : State) (v : Bool) : (s.setStopped v).draws = s.draws := rfl
@[simp] theorem State.setStopped_stepped (s : State) (v : Bool) : (s.setStopped v).stepped = s.stepped := rfl
@[simp] theorem State.setStopped_cur (s : State) (v : Bool) : (s.setStopped v).cur = s.cur := rfl
@[simp] theorem State.setStopped_snapshot (s : State) (v : Bool) : (s.setStopped v).snapshot = s.snapshot := rfl

@[simp] theorem State.setHaltBugArmed_cpu (s : State) (v : Bool) : (s.setHaltBugArmed v).cpu = { s.cpu with haltBugArmed := v } := rfl
@[simp] theorem State.setHaltBugArmed_bus (s : State) (v : Bool) : (s.setHaltBugArmed v).bus = s.bus := rfl
@[simp] theorem State.setHaltBugArmed_params (s : State) (v : Bool) : (s.setHaltBugArmed v).params = s.params := rfl
@[simp] theorem State.setHaltBugArmed_inputs (s : State) (v : Bool) : (s.setHaltBugArmed v).inputs = s.inputs := rfl
@[simp] theorem State.setHaltBugArmed_draws (s : State) (v : Bool) : (s.setHaltBugArmed v).draws = s.draws := rfl
@[simp] theorem State.setHaltBugArmed_stepped (s : State) (v : Bool) : (s.setHaltBugArmed v).stepped = s.stepped := rfl
@[simp] theorem State.setHaltBugArmed_cur (s : State) (v : Bool) : (s.setHaltBugArmed v).cur = s.cur := rfl
@[simp] theorem State.setHaltBugArmed_snapshot (s : State) (v : Bool) : (s.setHaltBugArmed v).snapshot = s.snapshot := rfl

@[simp] theorem State.noteOpcode_cpu (s : State) (pre : Bool) (op : Byte) :
    (s.noteOpcode pre op).cpu = { s.cpu with ir := op, prefixed := pre } := rfl
@[simp] theorem State.noteOpcode_bus (s : State) (pre : Bool) (op : Byte) : (s.noteOpcode pre op).bus = s.bus := rfl
@[simp] theorem State.noteOpcode_params (s : State) (pre : Bool) (op : Byte) : (s.noteOpcode pre op).params = s.params := rfl
@[simp] theorem State.noteOpcode_inputs (s : State) (pre : Bool) (op : Byte) : (s.noteOpcode pre op).inputs = s.inputs := rfl
@[simp] theorem State.noteOpcode_draws (s : State) (pre : Bool) (op : Byte) : (s.noteOpcode pre op).draws = s.draws := rfl
@[simp] theorem State.noteOpcode_stepped (s : State) (pre : Bool) (op : Byte) : (s.noteOpcode pre op).stepped = s.stepped := rfl
@[simp] theorem State.noteOpcode_cur (s : State) (pre : Bool) (op : Byte) : (s.noteOpcode pre op).cur = s.cur := rfl
@[simp] theorem State.noteOpcode_snapshot (s : State) (pre : Bool) (op : Byte) : (s.noteOpcode pre op).snapshot = s.snapshot := rfl

/-! ### Updates of the bus and of the latch -/

@[simp] theorem State.setBus_bus (s : State) (b : Bus) : (s.setBus b).bus = b := rfl
@[simp] theorem State.setBus_cpu (s : State) (b : Bus) : (s.setBus b).cpu = s.cpu := rfl
@[simp] theorem State.setBus_params (s : State) (b : Bus) : (s.setBus b).params = s.params := rfl
@[simp] theorem State.setBus_inputs (s : State) (b : Bus) : (s.setBus b).inputs = s.inputs := rfl
@[simp] theorem State.setBus_draws (s : State) (b : Bus) : (s.setBus b).draws = s.draws := rfl
@[simp] theorem State.setBus_stepped (s : State) (b : Bus) : (s.setBus b).stepped = s.stepped := rfl
@[simp] theorem State.setBus_cur (s : State) (b : Bus) : (s.setBus b).cur = s.cur := rfl
@[simp] theorem State.setBus_snapshot (s : State) (b : Bus) : (s.setBus b).snapshot = s.snapshot := rfl

@[simp] theorem State.setTaken_cur (s : State) (v : Bool) : (s.setTaken v).cur = { s.cur with taken := v } := rfl
@[simp] theorem State.setTaken_cpu (s : State) (v : Bool) : (s.setTaken v).cpu = s.cpu := rfl
@[simp] theorem State.setTaken_bus (s : State) (v : Bool) : (s.setTaken v).bus = s.bus := rfl
@[simp] theorem State.setTaken_params (s : State) (v : Bool) : (s.setTaken v).params = s.params := rfl
@[simp] theorem State.setTaken_inputs (s : State) (v : Bool) : (s.setTaken v).inputs = s.inputs := rfl
@[simp] theorem State.setTaken_draws (s : State) (v : Bool) : (s.setTaken v).draws = s.draws := rfl
@[simp] theorem State.setTaken_stepped (s : State) (v : Bool) : (s.setTaken v).stepped = s.stepped := rfl
@[simp] theorem State.setTaken_snapshot (s : State) (v : Bool) : (s.setTaken v).snapshot = s.snapshot := rfl

@[simp] theorem State.setIrqAck_cur (s : State) (v : BitVec 5) : (s.setIrqAck v).cur = { s.cur with irqAck := v } := rfl
@[simp] theorem State.setIrqAck_cpu (s : State) (v : BitVec 5) : (s.setIrqAck v).cpu = s.cpu := rfl
@[simp] theorem State.setIrqAck_bus (s : State) (v : BitVec 5) : (s.setIrqAck v).bus = s.bus := rfl
@[simp] theorem State.setIrqAck_params (s : State) (v : BitVec 5) : (s.setIrqAck v).params = s.params := rfl
@[simp] theorem State.setIrqAck_inputs (s : State) (v : BitVec 5) : (s.setIrqAck v).inputs = s.inputs := rfl
@[simp] theorem State.setIrqAck_draws (s : State) (v : BitVec 5) : (s.setIrqAck v).draws = s.draws := rfl
@[simp] theorem State.setIrqAck_stepped (s : State) (v : BitVec 5) : (s.setIrqAck v).stepped = s.stepped := rfl
@[simp] theorem State.setIrqAck_snapshot (s : State) (v : BitVec 5) : (s.setIrqAck v).snapshot = s.snapshot := rfl

@[simp] theorem State.logWrite_cur (s : State) (r : WriteRecord) : (s.logWrite r).cur = { s.cur with writes := s.cur.writes ++ [r] } := rfl
@[simp] theorem State.logWrite_cpu (s : State) (r : WriteRecord) : (s.logWrite r).cpu = s.cpu := rfl
@[simp] theorem State.logWrite_bus (s : State) (r : WriteRecord) : (s.logWrite r).bus = s.bus := rfl
@[simp] theorem State.logWrite_params (s : State) (r : WriteRecord) : (s.logWrite r).params = s.params := rfl
@[simp] theorem State.logWrite_inputs (s : State) (r : WriteRecord) : (s.logWrite r).inputs = s.inputs := rfl
@[simp] theorem State.logWrite_draws (s : State) (r : WriteRecord) : (s.logWrite r).draws = s.draws := rfl
@[simp] theorem State.logWrite_stepped (s : State) (r : WriteRecord) : (s.logWrite r).stepped = s.stepped := rfl
@[simp] theorem State.logWrite_snapshot (s : State) (r : WriteRecord) : (s.logWrite r).snapshot = s.snapshot := rfl

end Sys2Proof.Machine
end

