-- ==== Sys2Proof/Laws/Memory.lean ====
section
/-! SUPPORT. The laws of stored bytes and of the bus: a read after a write, the canonical form kept by every memory
operation, equal reads of canonical memories are equal memories. -/

namespace Sys2Proof.Machine

/-! ### Stored bytes -/

theorem Memory.wf_empty : Memory.wf Memory.empty := by decide

/-- A byte known to be what an unlisted address reads as is what it reads as. -/
theorem Unloaded.byte_of_isKnown {u : Unloaded} {v : Byte} (h : u.isKnown v = true) (a : Nat) : u.byte a = v := by
  cases u with
  | free => cases h
  | known w => exact (eq_of_beq h).symm

/-- The canonical form of a list of cells. -/
theorem Memory.wf_cons {u : Unloaded} {k : Nat} {w : Byte} {m : List Host.Cell} :
    Memory.wf ⟨u, (k, w) :: m⟩ ↔ (∀ c ∈ m, k < c.1) ∧ u.isKnown w = false ∧ k < 65536 ∧ Memory.wf ⟨u, m⟩ := by
  simp only [Memory.wf, List.pairwise_cons, List.mem_cons, forall_eq_or_imp]
  tauto

/-- An address below every listed one is not listed. -/
theorem lookCells_of_lt {m : List Host.Cell} {a : Nat} (h : ∀ c ∈ m, a < c.1) : lookCells m a = none := by
  induction m with
  | nil => rfl
  | cons c m ih =>
    obtain ⟨k, w⟩ := c
    have hk : a < k := h (k, w) (by simp)
    simp only [lookCells]
    rw [if_neg (by omega)]
    exact ih fun d hd => h d (by simp [hd])

/-- A write leaves what is listed at every other address, in any list. -/
theorem lookCells_writeCells_other (u : Unloaded) (m : List Host.Cell) {a b : Nat} (v : Byte) (h : b ≠ a) :
    lookCells (writeCells u m a v) b = lookCells m b := by
  induction m with
  | nil =>
    simp only [writeCells]
    split
    · rfl
    · simp [lookCells, Ne.symm h]
  | cons c m ih =>
    obtain ⟨k, w⟩ := c
    simp only [writeCells]
    split_ifs with h1 h2 h3 h4
    · rfl
    · simp [lookCells, Ne.symm h]
    · subst h3
      simp [lookCells, Ne.symm h]
    · subst h3
      simp [lookCells, Ne.symm h]
    · simp only [lookCells, ih]

/-- A written byte is listed at its address, but for one known to be what an unlisted address reads as. -/
theorem lookCells_writeCells_same {u : Unloaded} {m : List Host.Cell} (hm : Memory.wf ⟨u, m⟩) (a : Nat) (v : Byte) :
    lookCells (writeCells u m a v) a = if u.isKnown v then none else some v := by
  induction m with
  | nil =>
    simp only [writeCells]
    split <;> simp [lookCells]
  | cons c m ih =>
    obtain ⟨k, w⟩ := c
    obtain ⟨hlt, -, -, hm'⟩ := Memory.wf_cons.1 hm
    simp only [writeCells]
    split_ifs with h1 h2 h3 h4 h5
    · refine lookCells_of_lt ?_
      simp only [List.mem_cons, forall_eq_or_imp]
      exact ⟨h1, fun c hc => lt_trans h1 (hlt c hc)⟩
    · simp [lookCells]
    · subst h3
      exact lookCells_of_lt hlt
    · simp [lookCells]
    · simpa [lookCells, Ne.symm h3, h5] using ih hm'
    · simpa [lookCells, Ne.symm h3, h5] using ih hm'

@[simp] theorem Memory.write_unloaded (m : Memory) (a : Nat) (v : Byte) : (m.write a v).unloaded = m.unloaded := rfl

/-- A write leaves every other address alone, in any memory. -/
theorem Memory.read_write_other (m : Memory) {a b : Nat} (v : Byte) (h : b ≠ a) :
    Memory.read (Memory.write m a v) b = Memory.read m b := by
  simp [Memory.read, Memory.write, lookCells_writeCells_other _ _ v h]

/-- A write is read back. -/
theorem Memory.read_write_same {m : Memory} (hm : Memory.wf m) (a : Nat) (v : Byte) :
    Memory.read (Memory.write m a v) a = v := by
  simp only [Memory.read, Memory.write, lookCells_writeCells_same hm]
  split
  · exact Unloaded.byte_of_isKnown ‹_› a
  · rfl

theorem Memory.read_write {m : Memory} (hm : Memory.wf m) (a b : Nat) (v : Byte) :
    Memory.read (Memory.write m a v) b = if b = a then v else Memory.read m b := by
  split_ifs with h
  · subst h
    exact Memory.read_write_same hm b v
  · exact Memory.read_write_other m v h

/-- The addresses a write lists are the old ones and the written one. -/
theorem mem_writeCells {u : Unloaded} {m : List Host.Cell} {a : Nat} {v : Byte} {c : Host.Cell}
    (h : c ∈ writeCells u m a v) : c ∈ m ∨ (c = (a, v) ∧ u.isKnown v = false) := by
  induction m with
  | nil =>
    simp only [writeCells] at h
    split at h
    · simp at h
    · simp_all
  | cons d m ih =>
    obtain ⟨k, w⟩ := d
    simp only [writeCells] at h
    split_ifs at h with h1 h2 h3 h4
    · exact .inl h
    · rcases List.mem_cons.1 h with h | h
      · exact .inr ⟨h, by simpa using h2⟩
      · exact .inl h
    · exact .inl (List.mem_cons_of_mem _ h)
    · rcases List.mem_cons.1 h with h | h
      · exact .inr ⟨h, by simpa using h4⟩
      · exact .inl (List.mem_cons_of_mem _ h)
    · rcases List.mem_cons.1 h with h | h
      · exact .inl (by simp [h])
      · rcases ih h with h | h
        · exact .inl (List.mem_cons_of_mem _ h)
        · exact .inr h

/-- A write keeps the canonical form. -/
theorem Memory.wf_write {m : Memory} (hm : Memory.wf m) {a : Nat} (ha : a < 65536) (v : Byte) :
    Memory.wf (Memory.write m a v) := by
  obtain ⟨u, m⟩ := m
  change Memory.wf ⟨u, writeCells u m a v⟩
  induction m with
  | nil =>
    simp only [writeCells]
    split
    · exact hm
    · exact Memory.wf_cons.2 ⟨by simp, by simp_all, ha, hm⟩
  | cons c m ih =>
    obtain ⟨k, w⟩ := c
    obtain ⟨hlt, hw, hk, hm'⟩ := Memory.wf_cons.1 hm
    simp only [writeCells]
    split_ifs with h1 h2 h3 h4
    · exact hm
    · refine Memory.wf_cons.2 ⟨?_, by simpa using h2, ha, hm⟩
      simp only [List.mem_cons, forall_eq_or_imp]
      exact ⟨h1, fun c hc => lt_trans h1 (hlt c hc)⟩
    · exact hm'
    · subst h3
      exact Memory.wf_cons.2 ⟨hlt, by simpa using h4, ha, hm'⟩
    · refine Memory.wf_cons.2 ⟨fun c hc => ?_, hw, hk, ih hm'⟩
      rcases mem_writeCells hc with hc | ⟨rfl, -⟩
      · exact hlt c hc
      · simp only
        omega

/-- Rising lists that list the same bytes are equal. -/
theorem ext_lookCells {m n : List Host.Cell} (hm : m.Pairwise (fun c d => c.1 < d.1))
    (hn : n.Pairwise (fun c d => c.1 < d.1)) (h : ∀ a, lookCells m a = lookCells n a) : m = n := by
  induction m generalizing n with
  | nil =>
    cases n with
    | nil => rfl
    | cons d n => simpa [lookCells] using h d.1
  | cons c m ih =>
    obtain ⟨k, w⟩ := c
    obtain ⟨hlt, hm'⟩ := List.pairwise_cons.1 hm
    cases n with
    | nil => simpa [lookCells] using h k
    | cons d n =>
      obtain ⟨j, x⟩ := d
      obtain ⟨hlt', hn'⟩ := List.pairwise_cons.1 hn
      have hkj : k = j := by
        rcases lt_trichotomy k j with hkj | hkj | hkj
        · have := h k
          rw [lookCells_of_lt (m := (j, x) :: n) (a := k)] at this
          · simp [lookCells] at this
          · simp only [List.mem_cons, forall_eq_or_imp]
            exact ⟨hkj, fun c hc => lt_trans hkj (hlt' c hc)⟩
        · exact hkj
        · have := h j
          rw [lookCells_of_lt (m := (k, w) :: m) (a := j)] at this
          · simp [lookCells] at this
          · simp only [List.mem_cons, forall_eq_or_imp]
            exact ⟨hkj, fun c hc => lt_trans hkj (hlt c hc)⟩
      subst hkj
      have hwx : w = x := by simpa [lookCells] using h k
      subst hwx
      refine congrArg _ (ih hm' hn' fun a => ?_)
      have := h a
      simp only [lookCells] at this
      by_cases hka : k = a
      · subst hka
        rw [lookCells_of_lt hlt, lookCells_of_lt hlt']
      · simpa [hka] using this

/-- Canonical memories whose unloaded bytes are known and that read alike are equal. -/
theorem Memory.ext_read {m n : Memory} {v : Byte} (hm : Memory.wf m) (hn : Memory.wf n) (hmv : m.unloaded = .known v)
    (hnv : n.unloaded = .known v) (h : ∀ a, Memory.read m a = Memory.read n a) : m = n := by
  have key : ∀ {m : Memory}, Memory.wf m → m.unloaded = .known v → ∀ a w,
      lookCells m.cells a = some w → Memory.read m a = w ∧ w ≠ v := by
    intro m hm hmv a w ha
    refine ⟨by simp [Memory.read, ha], ?_⟩
    have hmem : (a, w) ∈ m.cells := by
      generalize m.cells = l at ha
      induction l with
      | nil => cases ha
      | cons c l ih =>
        simp only [lookCells] at ha
        split at ha
        · cases ha
          rename_i e
          subst e
          exact List.mem_cons_self
        · exact List.mem_cons_of_mem _ (ih ha)
    simpa [hmv, Unloaded.isKnown] using (hm.2 _ hmem).1
  have hcells : m.cells = n.cells := by
    refine ext_lookCells hm.1 hn.1 fun a => ?_
    have ha := h a
    cases hma : lookCells m.cells a with
    | none =>
      cases hna : lookCells n.cells a with
      | none => rfl
      | some w =>
        obtain ⟨k1, k2⟩ := key hn hnv a w hna
        rw [k1] at ha
        simp only [Memory.read, hma, hmv, Unloaded.byte, Option.getD_none] at ha
        exact absurd ha.symm k2
    | some w =>
      obtain ⟨k1, k2⟩ := key hm hmv a w hma
      cases hna : lookCells n.cells a with
      | none =>
        rw [k1] at ha
        simp only [Memory.read, hna, hnv, Unloaded.byte, Option.getD_none] at ha
        exact absurd ha k2
      | some x => rw [k1, (key hn hnv a x hna).1] at ha; rw [ha]
  obtain ⟨u, l⟩ := m
  obtain ⟨u', l'⟩ := n
  simp_all

/-! ### The bus -/

@[simp] theorem Bus.write_regions (b : Bus) (a : Nat) (v : Byte) : (b.write a v).regions = b.regions := by
  unfold Bus.write
  split <;> rfl

@[simp] theorem Bus.write_irqFromIf (b : Bus) (a : Nat) (v : Byte) : (b.write a v).irqFromIf = b.irqFromIf := by
  unfold Bus.write
  split <;> rfl

@[simp] theorem Bus.write_kindAt (b : Bus) (a : Nat) (v : Byte) (c : Nat) : (b.write a v).kindAt c = b.kindAt c := by
  simp [Bus.kindAt]

@[simp] theorem Bus.write_storageAt (b : Bus) (a : Nat) (v : Byte) (c : Nat) :
    (b.write a v).storageAt c = b.storageAt c := by
  simp [Bus.storageAt]

@[simp] theorem Bus.raise_regions (b : Bus) (irq : BitVec 5) : (b.raise irq).regions = b.regions := by
  unfold Bus.raise
  split <;> rfl

@[simp] theorem Bus.raise_irqFromIf (b : Bus) (irq : BitVec 5) : (b.raise irq).irqFromIf = b.irqFromIf := by
  unfold Bus.raise
  split <;> rfl

@[simp] theorem Bus.raise_mem (b : Bus) (irq : BitVec 5) : (b.raise irq).mem = b.mem := by
  unfold Bus.raise
  split <;> rfl

@[simp] theorem Bus.acknowledge_regions (b : Bus) (ack : BitVec 5) : (b.acknowledge ack).regions = b.regions := by
  unfold Bus.acknowledge
  split <;> rfl

@[simp] theorem Bus.acknowledge_irqFromIf (b : Bus) (ack : BitVec 5) :
    (b.acknowledge ack).irqFromIf = b.irqFromIf := by
  unfold Bus.acknowledge
  split <;> rfl

@[simp] theorem Bus.acknowledge_mem (b : Bus) (ack : BitVec 5) : (b.acknowledge ack).mem = b.mem := by
  unfold Bus.acknowledge
  split <;> rfl

/-- Under a bus without IF the peripherals' requests change nothing. -/
theorem Bus.raise_of_not_irqFromIf {b : Bus} (h : b.irqFromIf = false) (irq : BitVec 5) : b.raise irq = b := by
  simp [Bus.raise, h]

/-- Under a bus without IF the acknowledge changes nothing. -/
theorem Bus.acknowledge_of_not_irqFromIf {b : Bus} (h : b.irqFromIf = false) (ack : BitVec 5) :
    b.acknowledge ack = b := by
  simp [Bus.acknowledge, h]

/-- A write of the bus keeps the canonical form. -/
theorem Bus.write_wf {b : Bus} (hb : Memory.wf b.mem) {a : Nat} (ha : a < 65536) (v : Byte) :
    Memory.wf (b.write a v).mem := by
  unfold Bus.write
  split
  · exact Memory.wf_write hb ha v
  · exact hb
  · exact hb
  · exact hb
  · exact Memory.wf_write hb (by omega) v
  · exact hb

/-- A host load of a byte keeps the canonical form. -/
theorem Bus.load_wf {b : Bus} (hb : Memory.wf b.mem) {a : Nat} (ha : a < 65536) (v : Byte) :
    Memory.wf (b.load a v).mem := Memory.wf_write hb ha v

/-- A write of one address leaves every address of another storage alone. -/
theorem Bus.read_write_other (b : Bus) (draw : Nat) {a c : Nat} (v : Byte)
    (h : ¬ (b.storageAt a = b.storageAt c ∧ b.storageAt a ≠ .nowhere)) :
    (b.write a v).read draw c = b.read draw c := by
  simp only [Bus.read, Bus.write_kindAt]
  simp only [Bus.storageAt] at h
  unfold Bus.write
  cases ha : b.kindAt a <;> cases hc : b.kindAt c <;> simp [ha, hc] at h ⊢ <;>
    exact Memory.read_write_other _ _ (by omega)

/-- A write is read back where the bus keeps it. -/
theorem Bus.read_write_same {b : Bus} (hb : Memory.wf b.mem) (draw a : Nat) (v : Byte)
    (h : b.kindAt a = .ram ∨ ∃ back, b.kindAt a = .echo back) : (b.write a v).read draw a = v := by
  simp only [Bus.read, Bus.write_kindAt]
  unfold Bus.write
  rcases h with h | ⟨back, h⟩ <;> simp [h, Memory.read_write_same hb]

/-- FlatBus: every address is storage. -/
theorem Bus.kindAt_flat {b : Bus} (h : b.regions = []) (a : Nat) : b.kindAt a = .ram := by
  simp [Bus.kindAt, h, kindIn]

theorem reset_mem_wf : Memory.wf State.reset.bus.mem := Memory.wf_empty

end Sys2Proof.Machine
end

