-- ==== Sys2Proof/Laws/Ops.lean ====
section
/-! SUPPORT. What each shared operation can do, said once: a read, a store of one byte and of two, the stack, the
pending interrupts, the flags and the destination registers. -/

namespace Sys2Proof.Machine

/-! ### Reading -/

theorem State.memRead_def (s : State) (a : Word) :
    s.memRead a = if a = 0xFFFF#16 then s.cpu.ie else s.bus.read s.draws a.toNat := rfl

theorem State.storeByte_def (s : State) (a : Word) (v : Byte) :
    s.storeByte a v = if a = 0xFFFF#16 then s.setIe v else s.setBus (s.bus.write a.toNat v) := rfl

theorem State.storageAt_def (s : State) (a : Word) :
    s.storageAt a = if a = 0xFFFF#16 then Storage.interruptEnable else s.bus.storageAt a.toNat := rfl

/-- A read looks at IE, the bus and the draw counter only. -/
theorem State.memRead_congr {s t : State} (hie : t.cpu.ie = s.cpu.ie) (hb : t.bus = s.bus) (hd : t.draws = s.draws)
    (a : Word) : t.memRead a = s.memRead a := by
  simp [State.memRead, hie, hb, hd]

theorem State.memRead_ie (s : State) : s.memRead 0xFFFF#16 = s.cpu.ie := by
  simp [State.memRead, ieAddress]

/-- A change of the CPU state that leaves IE leaves every read. -/
theorem ReadsSame.of_cpu {s : State} {c : Cpu} (h : c.ie = s.cpu.ie) : ReadsSame s { s with cpu := c } :=
  fun a => State.memRead_congr (t := { s with cpu := c }) h rfl rfl a

theorem ReadsSame.of_same {s t : State} (hie : t.cpu.ie = s.cpu.ie) (hb : t.bus = s.bus) (hd : t.draws = s.draws) :
    ReadsSame s t := fun a => State.memRead_congr hie hb hd a

/-! ### Storing one byte -/

@[simp] theorem State.storeByte_cpu (s : State) (a : Word) (v : Byte) :
    (s.storeByte a v).cpu = { s.cpu with ie := s.ieAfterByte a v } := by
  by_cases h : a = 0xFFFF#16 <;> simp [State.storeByte_def, State.ieAfterByte, h]

@[simp] theorem State.storeByte_params (s : State) (a : Word) (v : Byte) : (s.storeByte a v).params = s.params := by
  by_cases h : a = 0xFFFF#16 <;> simp [State.storeByte_def, h]
@[simp] theorem State.storeByte_inputs (s : State) (a : Word) (v : Byte) : (s.storeByte a v).inputs = s.inputs := by
  by_cases h : a = 0xFFFF#16 <;> simp [State.storeByte_def, h]
@[simp] theorem State.storeByte_draws (s : State) (a : Word) (v : Byte) : (s.storeByte a v).draws = s.draws := by
  by_cases h : a = 0xFFFF#16 <;> simp [State.storeByte_def, h]
@[simp] theorem State.storeByte_stepped (s : State) (a : Word) (v : Byte) : (s.storeByte a v).stepped = s.stepped := by
  by_cases h : a = 0xFFFF#16 <;> simp [State.storeByte_def, h]
@[simp] theorem State.storeByte_cur (s : State) (a : Word) (v : Byte) : (s.storeByte a v).cur = s.cur := by
  by_cases h : a = 0xFFFF#16 <;> simp [State.storeByte_def, h]
@[simp] theorem State.storeByte_snapshot (s : State) (a : Word) (v : Byte) :
    (s.storeByte a v).snapshot = s.snapshot := by
  by_cases h : a = 0xFFFF#16 <;> simp [State.storeByte_def, h]
@[simp] theorem State.storeByte_regions (s : State) (a : Word) (v : Byte) :
    (s.storeByte a v).bus.regions = s.bus.regions := by
  by_cases h : a = 0xFFFF#16 <;> simp [State.storeByte_def, h]
@[simp] theorem State.storeByte_irqFromIf (s : State) (a : Word) (v : Byte) :
    (s.storeByte a v).bus.irqFromIf = s.bus.irqFromIf := by
  by_cases h : a = 0xFFFF#16 <;> simp [State.storeByte_def, h]
@[simp] theorem State.storeByte_kindAt (s : State) (a : Word) (v : Byte) (c : Nat) :
    (s.storeByte a v).bus.kindAt c = s.bus.kindAt c := by
  simp [Bus.kindAt]
@[simp] theorem State.storeByte_storageAt (s : State) (a : Word) (v : Byte) (b : Word) :
    (s.storeByte a v).storageAt b = s.storageAt b := by
  simp [State.storageAt, Bus.storageAt]

theorem State.storeByte_wf {s : State} (h : Memory.wf s.bus.mem) (a : Word) (v : Byte) :
    Memory.wf (s.storeByte a v).bus.mem := by
  simp only [State.storeByte]
  split
  · simpa using h
  · exact Bus.write_wf h a.isLt v

/-- A store leaves every address of another storage alone. -/
theorem State.memRead_storeByte_other {s : State} {a b : Word} (v : Byte) (h : ¬ s.sharesStorage a b) :
    (s.storeByte a v).memRead b = s.memRead b := by
  simp only [State.sharesStorage, State.storageAt_def] at h
  by_cases ha : a = 0xFFFF#16 <;> by_cases hb : b = 0xFFFF#16
  · simp [ha, hb] at h
  · simp [State.memRead_def, State.storeByte_def, ha, hb]
  · simp [State.memRead_def, State.storeByte_def, ha, hb]
  · simp only [State.memRead_def, State.storeByte_def, if_neg ha, if_neg hb, State.setBus_bus, State.setBus_draws]
    exact Bus.read_write_other _ _ _ (by simpa [ha, hb] using h)

/-- A store is read back where it is kept. -/
theorem State.memRead_storeByte_same {s : State} (hm : Memory.wf s.bus.mem) {a : Word} (v : Byte) (h : s.keeps a) :
    (s.storeByte a v).memRead a = v := by
  by_cases ha : a = 0xFFFF#16
  · simp [State.memRead_def, ha, State.ieAfterByte]
  · simp only [State.memRead_def, State.storeByte_def, if_neg ha, State.setBus_bus, State.setBus_draws]
    refine Bus.read_write_same hm _ _ _ ?_
    simpa [State.keeps, ha] using h

/-! ### `MemWrite` -/

/-- A change that leaves memory, the log and the rest alone keeps what a store left. -/
theorem Stored.congr {s t u : State} {label : WriteLabel} {a : Word} {bytes : List Byte}
    (h : Stored s t label a bytes) (hie : u.cpu.ie = t.cpu.ie) (hb : u.bus = t.bus) (hd : u.draws = t.draws)
    (hc : u.cur = t.cur) (hp : u.params = t.params) (hi : u.inputs = t.inputs) (hst : u.stepped = t.stepped)
    (hs : u.snapshot = t.snapshot) :
    Stored s u label a bytes where
  logged := hc.trans h.logged
  held k hk hkeep hlast := (State.memRead_congr hie hb hd _).trans (h.held k hk hkeep hlast)
  outside b hout := (State.memRead_congr hie hb hd _).trans (h.outside b hout)
  map := by rw [hb]; exact h.map
  rest := by rw [hp, hi, hd, hst, hs]; exact h.rest

@[simp] theorem State.memWrite_byte_cpu (s : State) (label : WriteLabel) (a : Word) (v : Byte) :
    (s.memWrite label a [v]).cpu = { s.cpu with ie := s.ieAfterByte a v } := by
  simp [State.memWrite, State.storeBytes, State.ieAfterByte]

theorem State.memWrite_byte {s : State} (hm : Memory.wf s.bus.mem) (label : WriteLabel) (a : Word) (v : Byte) :
    Stored s (s.memWrite label a [v]) label a [v] where
  logged := by simp [State.memWrite, State.storeBytes]
  held k hk hkeep _ := by
    have hk0 : k = 0 := by simpa using hk
    subst hk0
    simp only [BitVec.add_zero, List.getD_cons_zero] at hkeep ⊢
    exact State.memRead_storeByte_same (s := s.logWrite ⟨label, a, [v]⟩) hm v hkeep
  outside b h := by
    have := h 0 (by simp)
    simp only [BitVec.add_zero] at this
    exact State.memRead_storeByte_other (s := s.logWrite ⟨label, a, [v]⟩) v this
  map := by simp [State.memWrite, State.storeBytes]
  rest := by simp [State.memWrite, State.storeBytes]

@[simp] theorem State.memWrite_word_cpu (s : State) (label : WriteLabel) (a v : Word) :
    (s.memWrite label a (wordBytes v)).cpu = { s.cpu with ie := s.ieAfterWord a v } := by
  simp only [State.memWrite, wordBytes, State.storeBytes, State.storeByte_cpu, State.logWrite_cpu, State.ieAfterByte,
    State.ieAfterWord]
  have h1 : a + 1#16 = 0xFFFF#16 ↔ a = 0xFFFE#16 := by
    constructor <;> intro h <;> bv_omega
  by_cases ha : a = 0xFFFF#16
  · subst ha
    simp
  · simp [ha, h1]

theorem State.memWrite_word {s : State} (hm : Memory.wf s.bus.mem) (label : WriteLabel) (a v : Word) :
    Stored s (s.memWrite label a (wordBytes v)) label a (wordBytes v) where
  logged := by simp [State.memWrite, State.storeBytes, wordBytes]
  held k hk hkeep hlast := by
    simp only [wordBytes, List.length_cons, List.length_nil] at hk hlast
    have hk01 : k = 0 ∨ k = 1 := by omega
    simp only [State.memWrite, wordBytes, State.storeBytes]
    rcases hk01 with rfl | rfl
    · have hno : ¬ s.sharesStorage (a + 1#16) a := by simpa using hlast 1 (by omega) (by omega)
      simp only [BitVec.add_zero, List.getD_cons_zero] at hkeep ⊢
      rw [State.memRead_storeByte_other]
      · exact State.memRead_storeByte_same (s := s.logWrite ⟨label, a, [v.lo, v.hi]⟩) hm _ hkeep
      · simp only [State.sharesStorage, State.storeByte_storageAt]
        exact hno
    · simp only [List.getD_cons_succ, List.getD_cons_zero] at hkeep ⊢
      refine State.memRead_storeByte_same (State.storeByte_wf (s := s.logWrite ⟨label, a, [v.lo, v.hi]⟩) hm _ _) _ ?_
      simp only [State.keeps, State.storeByte_kindAt]
      exact hkeep
  outside b h := by
    have h0 := h 0 (by simp [wordBytes])
    have h1 := h 1 (by simp [wordBytes])
    simp only [BitVec.add_zero] at h0 h1
    simp only [State.memWrite, wordBytes, State.storeBytes]
    rw [State.memRead_storeByte_other]
    swap
    · simp only [State.sharesStorage, State.storeByte_storageAt]
      exact h1
    exact State.memRead_storeByte_other (s := s.logWrite ⟨label, a, [v.lo, v.hi]⟩) _ h0
  map := by simp [State.memWrite, State.storeBytes, wordBytes]
  rest := by simp [State.memWrite, State.storeBytes, wordBytes]

/-! ### The stack -/

@[simp] theorem State.push16_cpu (s : State) (label : WriteLabel) (v : Word) :
    (s.push16 label v).cpu =
      { s.cpu with sp := s.cpu.sp - 2#16, ie := s.ieAfterWord (s.cpu.sp - 2#16) v } := by
  simp [State.push16, State.ieAfterWord]

theorem State.push16_stored {s : State} (hm : Memory.wf s.bus.mem) (label : WriteLabel) (v : Word) :
    Stored s (s.push16 label v) label (s.cpu.sp - 2#16) (wordBytes v) := by
  have h := State.memWrite_word (s := s.setSp (s.cpu.sp - 2#16)) hm label (s.cpu.sp - 2#16) v
  exact ⟨h.logged, h.held, h.outside, h.map, h.rest⟩

/-- The value on top of the stack is the word at SP. -/
theorem State.stackTop_eq (s : State) : s.stackTop = s.wordAt s.cpu.sp := rfl

@[simp] theorem State.dropTop_cpu (s : State) : s.dropTop.cpu = { s.cpu with sp := s.cpu.sp + 2#16 } := rfl

/-! ### The canonical form through the operations -/

theorem State.memWrite_wf {s : State} (hm : Memory.wf s.bus.mem) (label : WriteLabel) (a : Word) (bytes : List Byte) :
    Memory.wf (s.memWrite label a bytes).bus.mem := by
  have key : ∀ (bytes : List Byte) (u : State) (a : Word), Memory.wf u.bus.mem →
      Memory.wf (u.storeBytes a bytes).bus.mem := by
    intro bytes
    induction bytes with
    | nil => exact fun u a h => h
    | cons v vs ih => exact fun u a h => ih _ _ (State.storeByte_wf h a v)
  exact key bytes (s.logWrite ⟨label, a, bytes⟩) a hm

theorem State.push16_wf {s : State} (hm : Memory.wf s.bus.mem) (label : WriteLabel) (v : Word) :
    Memory.wf (s.push16 label v).bus.mem :=
  State.memWrite_wf (s := s.setSp (s.cpu.sp - 2#16)) hm label _ _

/-! ### Flags -/

theorem flagByte_low (z n h c : Bool) : (flagByte z n h c).extractLsb' 0 4 = 0#4 := by
  cases z <;> cases n <;> cases h <;> cases c <;> rfl

theorem flagByte_masked (z n h c : Bool) : flagByte z n h c &&& 0xF0#8 = flagByte z n h c := by
  cases z <;> cases n <;> cases h <;> cases c <;> rfl

theorem masked_low (v : Byte) : (v &&& 0xF0#8).extractLsb' 0 4 = 0#4 := by
  ext i hi
  interval_cases i <;> simp

@[simp] theorem flagByte_bit7 (z n h c : Bool) : (flagByte z n h c).getLsbD 7 = z := by
  cases z <;> cases n <;> cases h <;> cases c <;> rfl
@[simp] theorem flagByte_bit6 (z n h c : Bool) : (flagByte z n h c).getLsbD 6 = n := by
  cases z <;> cases n <;> cases h <;> cases c <;> rfl
@[simp] theorem flagByte_bit5 (z n h c : Bool) : (flagByte z n h c).getLsbD 5 = h := by
  cases z <;> cases n <;> cases h <;> cases c <;> rfl
@[simp] theorem flagByte_bit4 (z n h c : Bool) : (flagByte z n h c).getLsbD 4 = c := by
  cases z <;> cases n <;> cases h <;> cases c <;> rfl
@[simp] theorem flagByte_getElem7 (z n h c : Bool) : (flagByte z n h c)[7] = z := by
  cases z <;> cases n <;> cases h <;> cases c <;> rfl
@[simp] theorem flagByte_getElem6 (z n h c : Bool) : (flagByte z n h c)[6] = n := by
  cases z <;> cases n <;> cases h <;> cases c <;> rfl
@[simp] theorem flagByte_getElem5 (z n h c : Bool) : (flagByte z n h c)[5] = h := by
  cases z <;> cases n <;> cases h <;> cases c <;> rfl
@[simp] theorem flagByte_getElem4 (z n h c : Bool) : (flagByte z n h c)[4] = c := by
  cases z <;> cases n <;> cases h <;> cases c <;> rfl

@[simp] theorem State.setFlags_cpu (s : State) (z n h c : Option Bool) :
    (s.setFlags z n h c).cpu =
      { s.cpu with f := flagByte (z.getD s.flagZ) (n.getD s.flagN) (h.getD s.flagH) (c.getD s.flagC) } := by
  simp [State.setFlags, flagByte_masked]
@[simp] theorem State.setFlags_bus (s : State) (z n h c : Option Bool) : (s.setFlags z n h c).bus = s.bus := rfl
@[simp] theorem State.setFlags_params (s : State) (z n h c : Option Bool) :
    (s.setFlags z n h c).params = s.params := rfl
@[simp] theorem State.setFlags_inputs (s : State) (z n h c : Option Bool) :
    (s.setFlags z n h c).inputs = s.inputs := rfl
@[simp] theorem State.setFlags_draws (s : State) (z n h c : Option Bool) : (s.setFlags z n h c).draws = s.draws := rfl
@[simp] theorem State.setFlags_stepped (s : State) (z n h c : Option Bool) :
    (s.setFlags z n h c).stepped = s.stepped := rfl
@[simp] theorem State.setFlags_cur (s : State) (z n h c : Option Bool) : (s.setFlags z n h c).cur = s.cur := rfl
@[simp] theorem State.setFlags_snapshot (s : State) (z n h c : Option Bool) :
    (s.setFlags z n h c).snapshot = s.snapshot := rfl

/-! ### Bytes of a word -/

@[simp] theorem Word.hi_ofBytes (hi lo : Byte) : (Word.ofBytes hi lo).hi = hi := by
  ext i h
  simp only [Word.ofBytes, Word.hi, BitVec.getElem_extractLsb', BitVec.getLsbD_append]
  simp [h, BitVec.getLsbD_eq_getElem]

@[simp] theorem Word.lo_ofBytes (hi lo : Byte) : (Word.ofBytes hi lo).lo = lo := by
  ext i h
  simp only [Word.ofBytes, Word.lo, BitVec.getElem_extractLsb', BitVec.getLsbD_append]
  simp [h, BitVec.getLsbD_eq_getElem]

@[simp] theorem Word.ofBytes_hi_lo (w : Word) : Word.ofBytes w.hi w.lo = w := by
  ext i h
  simp only [Word.ofBytes, Word.hi, Word.lo, ← BitVec.getLsbD_eq_getElem, BitVec.getLsbD_append,
    BitVec.getLsbD_extractLsb']
  by_cases h8 : i < 8
  · simp [h8]
  · have : i - 8 < 8 := by omega
    simp [h8, this, Nat.add_sub_cancel' (by omega : 8 ≤ i)]

/-! ### Destination registers -/

/-- Writing an 8-bit register that is not (HL). -/
theorem State.writeR8_writes (s : State) {r : R8} (h : r ≠ .mHL) (v : Byte) : WritesR8 s (s.writeR8 r v) r v s.cpu.f := by
  constructor
  · cases r <;> first | rfl | exact absurd rfl h
  · intro r' hr'
    cases r <;> cases r' <;>
      first
      | exact absurd rfl h
      | exact absurd rfl hr'
      | simp [State.readR8, State.writeR8]

/-- Writing an 8-bit register that is not (HL), then the flags. -/
theorem State.writeR8_setFlags_writes (s : State) {r : R8} (hr : r ≠ .mHL) (v : Byte) (z n h c : Option Bool) :
    WritesR8 s ((s.writeR8 r v).setFlags z n h c) r v
      (flagByte (z.getD s.flagZ) (n.getD s.flagN) (h.getD s.flagH) (c.getD s.flagC)) := by
  have hf : (s.writeR8 r v).cpu.f = s.cpu.f := by cases r <;> first | rfl | exact absurd rfl hr
  obtain ⟨h1, h2⟩ := State.writeR8_writes s hr v
  have hfl : ∀ z n h c : Option Bool, ((s.writeR8 r v).setFlags z n h c) =
      { s.writeR8 r v with cpu := { (s.writeR8 r v).cpu with
          f := flagByte (z.getD s.flagZ) (n.getD s.flagN) (h.getD s.flagH) (c.getD s.flagC) } } := by
    intro z n h c
    simp only [State.setFlags, State.setF, flagByte_masked, State.flagZ, State.flagN, State.flagH, State.flagC, hf]
  constructor
  · rw [hfl]
    cases r <;> first | rfl | exact absurd rfl hr
  · intro r' hr'
    rw [← h2 r' hr']
    cases r' <;> simp [State.readR8] at hr' ⊢

/-- Writing a 16-bit register. -/
theorem State.writeR16_writes (s : State) (rr : R16) (v : Word) : WritesR16 s (s.writeR16 rr v) rr v := by
  constructor
  · cases rr <;> rfl
  · intro rr'
    cases rr <;> cases rr' <;> simp [State.readR16, State.writeR16]

/-! ### Pending interrupts -/

theorem State.pendingBit_eq (s : State) {n : Nat} (h : n < 5) : s.pendingBit n = s.pending.getLsbD n := by
  simp [State.pendingBit, State.pending, h]

/-- A source is dispatched only if it is pending and no source of a lower number is. -/
theorem State.lowestPending_eq_some_iff (s : State) (n : Fin 5) :
    s.lowestPending = some n ↔
      s.pending.getLsbD n.val = true ∧ ∀ m < n.val, s.pending.getLsbD m = false := by
  have hb : ∀ k : Nat, k < 5 → s.pendingBit k = s.pending.getLsbD k := fun k hk => s.pendingBit_eq hk
  have h0 := hb 0 (by omega)
  have h1 := hb 1 (by omega)
  have h2 := hb 2 (by omega)
  have h3 := hb 3 (by omega)
  have h4 := hb 4 (by omega)
  unfold State.lowestPending
  rw [h0, h1, h2, h3, h4]
  clear hb h0 h1 h2 h3 h4
  generalize s.pending.getLsbD = p
  obtain ⟨n, hn⟩ := n
  have all1 : (∀ m < 1, p m = false) ↔ p 0 = false := by simp
  have all2 : (∀ m < 2, p m = false) ↔ p 0 = false ∧ p 1 = false := by
    rw [Nat.forall_lt_succ_right, all1]
  have all3 : (∀ m < 3, p m = false) ↔ (p 0 = false ∧ p 1 = false) ∧ p 2 = false := by
    rw [Nat.forall_lt_succ_right, all2]
  have all4 : (∀ m < 4, p m = false) ↔ ((p 0 = false ∧ p 1 = false) ∧ p 2 = false) ∧ p 3 = false := by
    rw [Nat.forall_lt_succ_right, all3]
  interval_cases n <;> simp only [all1, all2, all3, all4] <;>
    cases p 0 <;> cases p 1 <;> cases p 2 <;> cases p 3 <;> cases p 4 <;> simp

theorem State.lowestPending_eq_none_iff (s : State) : s.lowestPending = none ↔ s.pending = 0#5 := by
  have hb : ∀ k : Nat, k < 5 → s.pendingBit k = s.pending.getLsbD k := fun k hk => s.pendingBit_eq hk
  unfold State.lowestPending
  rw [hb 0 (by omega), hb 1 (by omega), hb 2 (by omega), hb 3 (by omega), hb 4 (by omega)]
  constructor
  · intro h
    split_ifs at h
    ext i hi
    interval_cases i <;> simp_all [BitVec.getLsbD_eq_getElem]
  · intro h
    simp [h]

end Sys2Proof.Machine
end

