-- ==== Sys2Proof/Laws/Families.lean ====
section
/-! SUPPORT. The meaning of a row through its form: rows of one form have one meaning up to their fields, so a
statement about a form is proved once and not per constructor. -/

namespace Sys2Proof.Machine

/-- The meaning of a form. -/
def familyMeaning : Form → State → Result
  | .nop, s => .next s
  | .stop _, s => .next (s.setStopped true)
  | .halt, s => execHalt s
  | .di, s => .next ((s.setIme false).setImeScheduled false)
  | .ei, s => .next (s.setImeScheduled true)
  | .prefixCB, s => execPrefixCb s
  | .invalid op, s => s.raiseUnknownOpcode op
  | .ld r r', s => s.copyR8 r r'
  | .ldImm r d8, s => s.loadImmR8 r d8
  | .ldAInd p, s => s.loadAPointer p
  | .ldIndA p, s => s.storeAPointer p
  | .ldAMa16 a16, s => .next (s.loadA a16)
  | .ldMa16A a16, s => .next (s.storeA .ma16 a16)
  | .ldhAMa8 a8, s => .next (s.loadA (highPage a8))
  | .ldhMa8A a8, s => .next (s.storeA .ma8 (highPage a8))
  | .ldAMc, s => .next (s.loadA (highPage s.cpu.bc.lo))
  | .ldMcA, s => .next (s.storeA .mC (highPage s.cpu.bc.lo))
  | .ld16 rr d16, s => s.loadImmR16 rr d16
  | .ldMa16Sp a16, s => .next (s.memWrite .ma16 a16 (wordBytes s.cpu.sp))
  | .ldSpHl, s => .next (s.setSp s.cpu.hl)
  | .ldHlSp e8, s => execLdHlSpE8 e8 s
  | .push rr, s => s.pushR16 rr
  | .pop rr, s => s.popR16 rr
  | .alu op r, s => s.aluR8 op r
  | .aluImm op d8, s => s.aluImm op d8
  | .inc r, s => s.incR8 r
  | .dec r, s => s.decR8 r
  | .inc16 rr, s => s.incR16 rr
  | .dec16 rr, s => s.decR16 rr
  | .addHl rr, s => s.addHlR16 rr
  | .addSp e8, s => execAddSpE8 e8 s
  | .rlca, s => s.rotateA .rlc
  | .rrca, s => s.rotateA .rrc
  | .rla, s => s.rotateA .rl
  | .rra, s => s.rotateA .rr
  | .daa, s => execDaa s
  | .cpl, s => execCpl s
  | .scf, s => execScf s
  | .ccf, s => execCcf s
  | .jp a16, s => .next (s.setPc a16)
  | .jpCond cc a16, s => s.jumpIf cc a16
  | .jpHL, s => .next (s.setPc s.cpu.hl)
  | .jr e8, s => .next (s.jumpRelative e8)
  | .jrCond cc e8, s => s.jumpRelativeIf cc e8
  | .call a16, s => .next (s.callTo .call a16)
  | .callCond cc a16, s => s.callIf cc a16
  | .ret, s => .next s.returnPop
  | .retCond cc, s => s.returnIf cc
  | .reti, s => .next s.returnFromInterrupt
  | .rst t, s => s.restart t
  | .rot op r, s => s.rotateR8 op r
  | .bit b r, s => s.testBit b r
  | .res b r, s => s.resetBit b r
  | .set b r, s => s.setBit b r

/-- A row runs as its form does. -/
theorem exec_eq_familyMeaning (i : Instr) (s : State) : exec i s = familyMeaning i.form s := by
  cases i <;> rfl

/-- The form of a CB-opcode by its fields x, y and z. -/
def cbForm (op : Byte) : Form :=
  let y := op.extractLsb' 3 3
  let r := r8OfCode (op.extractLsb' 0 3)
  match (op.extractLsb' 6 2).toNat with
  | 0 => .rot (rotOfCode y) r
  | 1 => .bit y r
  | 2 => .res y r
  | _ => .set y r

/-- The lookup in the CB-prefixed table gives the row of the byte's fields. -/
theorem form_decodeCB (op : Byte) : (decodeCB op).form = cbForm op := by
  have h : ∀ n : Fin 256, (decodeCB (BitVec.ofFin n)).form = cbForm (BitVec.ofFin n) := by decide +kernel
  exact h op.toFin

/-- The CB instruction of a byte runs as the fields of the byte say. -/
theorem exec_decodeCB (op : Byte) (s : State) : exec (decodeCB op) s = s.runCB op := by
  rw [exec_eq_familyMeaning, form_decodeCB]
  simp only [cbForm, State.runCB]
  generalize (op.extractLsb' 6 2).toNat = x
  rcases x with _ | _ | _ | x <;> rfl

/-- Running a CB-opcode always completes. -/
theorem runCB_next (op : Byte) (s : State) : ∃ t, s.runCB op = .next t := by
  unfold State.runCB
  split <;> exact ⟨_, rfl⟩

/-- The row of the form `invalid`. -/
def Form.isInvalidRow : Form → Bool
  | .invalid _ => true
  | _ => false

/-- The row of the form `prefixCB`. -/
def Form.isPrefixRow : Form → Bool
  | .prefixCB => true
  | _ => false

theorem isInvalid_eq (i : Instr) : i.isInvalid = Form.isInvalidRow i.form := by cases i <;> rfl

theorem isPrefix_eq (i : Instr) : i.isPrefix = Form.isPrefixRow i.form := by cases i <;> rfl

/-- The invalid rows are those of the form `invalid`. -/
theorem isInvalid_iff (i : Instr) : i.isInvalid = true ↔ ∃ op, i.form = .invalid op := by
  rw [isInvalid_eq]
  cases i.form <;> simp [Form.isInvalidRow]

/-- The row PREFIX CB is the one of the form `prefixCB`. -/
theorem isPrefix_iff (i : Instr) : i.isPrefix = true ↔ i.form = .prefixCB := by
  rw [isPrefix_eq]
  cases i.form <;> simp [Form.isPrefixRow]

/-- Every row but the invalid ones completes. -/
theorem exec_next {i : Instr} (h : i.isInvalid = false) (s : State) : ∃ t, exec i s = .next t := by
  rw [isInvalid_eq] at h
  rw [exec_eq_familyMeaning]
  cases hf : i.form <;> rw [hf] at h <;>
    first
    | exact ⟨_, rfl⟩
    | cases h
  · simp only [familyMeaning, execHalt]
    split
    · exact ⟨_, rfl⟩
    · split_ifs <;> exact ⟨_, rfl⟩
  · exact runCB_next _ _

end Sys2Proof.Machine
end

