-- ==== Sys2Proof/Laws/Arith.lean ====
section
/-! SUPPORT. The arithmetic of the operand forms and of the flags, in numbers: the displacement, the high page, the low
nibble, addition and subtraction, the rotates bit by bit. -/

namespace Sys2Proof.Machine

/-! ### Addresses -/

/-- Adding a displacement is adding its signed value, modulo 2^16. -/
theorem add_displacement (p : Word) (e8 : Byte) :
    p + displacement e8 = BitVec.ofInt 16 (p.toNat + e8.toInt) := by
  rw [displacement, BitVec.ofInt_add]
  congr 1
  simp

/-- A high-page address has 0xFF above its offset. -/
theorem highPage_eq (offset : Byte) : highPage offset = 0xFF#8 ++ offset := by
  revert offset
  decide

/-! ### Sums and differences -/

theorem lowNibble_eq (a : Byte) : lowNibble a = a.toNat % 16 := by
  simp [lowNibble, BitVec.extractLsb'_toNat]

theorem Word.lo_toNat (w : Word) : w.lo.toNat = w.toNat % 256 := by
  simp [Word.lo, BitVec.extractLsb'_toNat]

theorem add8_half (a v : Byte) (cin : Bool) :
    (add8 a v cin).half = decide (a.toNat % 16 + v.toNat % 16 + cin.toNat > 15) := by
  simp [add8, lowNibble_eq]

theorem add8_zero (a v : Byte) (cin : Bool) :
    decide ((add8 a v cin).res = 0#8) = decide ((a.toNat + v.toNat + cin.toNat) % 256 = 0) := by
  simp only [add8]
  congr 1
  rw [← BitVec.toNat_inj]
  simp

theorem sub8_half (a v : Byte) (bin : Bool) :
    (sub8 a v bin).half = decide (a.toNat % 16 < v.toNat % 16 + bin.toNat) := by
  simp only [sub8, lowNibble_eq]
  congr 1
  rw [eq_iff_iff]
  omega

theorem sub8_cout (a v : Byte) (bin : Bool) :
    (sub8 a v bin).cout = decide (a.toNat < v.toNat + bin.toNat) := by
  simp only [sub8]
  congr 1
  rw [eq_iff_iff]
  omega

/-- INC of a byte, in numbers. -/
theorem add8_one (v : Byte) :
    (add8 v 1#8 false).res = v + 1#8 ∧
    decide ((add8 v 1#8 false).res = 0#8) = decide (v = 0xFF#8) ∧
    (add8 v 1#8 false).half = decide (v.toNat % 16 = 15) := by
  revert v
  decide

/-- DEC of a byte, in numbers. -/
theorem sub8_one (v : Byte) :
    (sub8 v 1#8 false).res = v - 1#8 ∧
    decide ((sub8 v 1#8 false).res = 0#8) = decide (v = 0x01#8) ∧
    (sub8 v 1#8 false).half = decide (v.toNat % 16 = 0) := by
  revert v
  decide

/-- The flags of the SP forms, from the low byte of SP. -/
theorem add8_low (sp : Word) (e8 : Byte) :
    (add8 sp.lo e8 false).half = decide (sp.toNat % 16 + e8.toNat % 16 > 15) ∧
    (add8 sp.lo e8 false).cout = decide (sp.toNat % 256 + e8.toNat > 255) := by
  simp [add8, lowNibble_eq, Word.lo_toNat]

/-! ### Rotates -/

/-- Each rotate, shift and swap, bit by bit. -/
theorem rotate_rotatesTo (op : RotOp) (v : Byte) (cy : Bool) :
    RotatesTo op v cy (rotate op v cy).1 (rotate op v cy).2 := by
  cases op <;> refine ⟨rfl, fun k hk => ?_⟩ <;> 
    simp only [rotate, BitVec.getLsbD_append, BitVec.getLsbD_extractLsb'] <;> interval_cases k <;> simp

end Sys2Proof.Machine
end

