-- ==== Sys2Proof/Laws/Decode.lean ====
section
/-! SUPPORT. The decoder on lists of bytes, in terms of the three-byte window, and the length of what it gives. -/

namespace Sys2Proof

/-- Decoding a list is looking at its first three bytes. -/
theorem decode_cons_of {b0 : Byte} {bytes : List Byte} {i : Instr}
    (hi : decodeWindow b0 (bytes.getD 0 0#8) (bytes.getD 1 0#8) = i) (hl : i.length ≤ 1 + bytes.length) :
    decode (b0 :: bytes) = .ok (i, bytes.drop (i.length - 1)) := by
  subst hi
  simp only [decode]
  rw [if_pos hl]

theorem decode_cons_iff {b0 : Byte} {bytes rest : List Byte} {i : Instr} :
    decode (b0 :: bytes) = .ok (i, rest) ↔
      decodeWindow b0 (bytes.getD 0 0#8) (bytes.getD 1 0#8) = i ∧ i.length ≤ 1 + bytes.length ∧
        rest = bytes.drop (i.length - 1) := by
  simp only [decode]
  split
  · rename_i h
    constructor
    · intro e
      cases e
      exact ⟨rfl, h, rfl⟩
    · rintro ⟨rfl, -, rfl⟩
      rfl
  · rename_i h
    constructor
    · intro e
      cases e
    · rintro ⟨rfl, h', -⟩
      exact absurd h' h

/-- Every row has one to three bytes. -/
theorem Instr.length_bounds (i : Instr) : 1 ≤ i.length ∧ i.length ≤ 3 := by
  unfold Instr.length Form.length
  generalize i.form = f
  cases f <;> simp [Form.prefixed, Form.immBytes]

/-- Three bytes are always enough. -/
theorem decode_window (b0 b1 b2 : Byte) :
    decode [b0, b1, b2] = .ok (decodeWindow b0 b1 b2, [b1, b2].drop ((decodeWindow b0 b1 b2).length - 1)) :=
  decode_cons_of rfl (by simpa using (Instr.length_bounds (decodeWindow b0 b1 b2)).2)

/-! ### The CB-prefixed table -/

/-- A CB-opcode encodes back to its two bytes, and is an instruction. -/
theorem encode_decodeCB (op : Byte) :
    encode (decodeCB op) = [0xCB#8, op] ∧ (decodeCB op).length = 2 ∧ (decodeCB op).wellFormed = true := by
  have h : ∀ n : Fin 256, encode (decodeCB (BitVec.ofFin n)) = [0xCB#8, BitVec.ofFin n] ∧
      (decodeCB (BitVec.ofFin n)).length = 2 ∧ (decodeCB (BitVec.ofFin n)).wellFormed = true := by decide +kernel
  exact h op.toFin

/-! ### The unprefixed table -/

/-- What is said of every row and column of the unprefixed map holds of every lookup in it. -/
theorem decodeMain_of_map {α : Type} (g : Instr → α) (n8 : Byte) (n16 : Word) (h : Nat → Nat → α)
    (hmap : (mainMap n8 n16).map (·.map g) = (List.range 16).map fun r => (List.range 16).map fun c => h r c)
    (op : Byte) : g (decodeMain op n8 n16) = h (op.toNat / 16) (op.toNat % 16) := by
  have hr : op.toNat / 16 < 16 := by have := op.isLt; omega
  have hc : op.toNat % 16 < 16 := by omega
  unfold decodeMain
  generalize op.toNat / 16 = r at *
  generalize op.toNat % 16 = c at *
  have h1 : ((mainMap n8 n16).map (·.map g))[r]? = some ((List.range 16).map fun c => h r c) := by
    rw [hmap]
    simp [hr]
  rw [List.getElem?_map] at h1
  obtain ⟨row, hrow, h2⟩ := Option.map_eq_some_iff.1 h1
  have h3 : (row.map g)[c]? = some (h r c) := by
    rw [h2]
    simp [hc]
  rw [List.getElem?_map] at h3
  obtain ⟨i, hi, h4⟩ := Option.map_eq_some_iff.1 h3
  rw [List.getD_eq_getElem?_getD, List.getD_eq_getElem?_getD, hrow]
  simp only [Option.getD_some]
  rw [hi]
  exact h4

/-- The byte of a row and a column. -/
theorem byte_of_nibbles (op : Byte) : BitVec.ofNat 8 (16 * (op.toNat / 16) + op.toNat % 16) = op := by
  rw [Nat.div_add_mod]
  simp

/-- No row of the unprefixed table is prefixed, and each has the opcode it is looked up by. -/
theorem decodeMain_opcode (op n8 : Byte) (n16 : Word) :
    (decodeMain op n8 n16).form.prefixed = false ∧ (decodeMain op n8 n16).form.opcode = op := by
  constructor
  · exact decodeMain_of_map (fun i => i.form.prefixed) n8 n16 (fun _ _ => false) rfl op
  · exact (decodeMain_of_map (fun i => i.form.opcode) n8 n16 (fun r c => BitVec.ofNat 8 (16 * r + c)) rfl op).trans
      (byte_of_nibbles op)

/-- The immediate of a row of the unprefixed table: nothing, the byte after the opcode, or the two after it. -/
theorem decodeMain_immBytes (op n8 : Byte) (n16 : Word) :
    (decodeMain op n8 n16).form.immBytes =
      match (decodeMain op n8 n16).form.immBytes.length with
      | 0 => []
      | 1 => [n8]
      | _ => [n16.lo, n16.hi] := by
  have h := decodeMain_of_map
    (fun i => (i.form.immBytes, match i.form.immBytes.length with | 0 => [] | 1 => [n8] | _ => [n16.lo, n16.hi]))
    n8 n16 (fun r c =>
      ((((mainMap n8 n16).getD r []).getD c .nop).form.immBytes,
        (((mainMap n8 n16).getD r []).getD c .nop).form.immBytes)) rfl op
  simp only [Prod.mk.injEq] at h
  exact h.1.trans h.2.symm

/-- The invalid rows of the unprefixed table are the eleven bytes of spec/30_encoding.md R196. -/
theorem decodeMain_isInvalid (op n8 : Byte) (n16 : Word) :
    (decodeMain op n8 n16).isInvalid =
      decide (op ∈ [0xD3#8, 0xDB#8, 0xDD#8, 0xE3#8, 0xE4#8, 0xEB#8, 0xEC#8, 0xED#8, 0xF4#8, 0xFC#8, 0xFD#8]) := by
  rw [decodeMain_of_map Instr.isInvalid n8 n16
    (fun r c => decide (BitVec.ofNat 8 (16 * r + c) ∈
      [0xD3#8, 0xDB#8, 0xDD#8, 0xE3#8, 0xE4#8, 0xEB#8, 0xEC#8, 0xED#8, 0xF4#8, 0xFC#8, 0xFD#8])) rfl op,
    byte_of_nibbles]

/-- The only prefix row is that of 0xCB. -/
theorem decodeMain_isPrefix (op n8 : Byte) (n16 : Word) :
    (decodeMain op n8 n16).isPrefix = decide (op = 0xCB#8) := by
  rw [decodeMain_of_map Instr.isPrefix n8 n16 (fun r c => decide (BitVec.ofNat 8 (16 * r + c) = 0xCB#8)) rfl op,
    byte_of_nibbles]

/-- The length of a row of the unprefixed table is that of its opcode byte alone (spec/30_encoding.md R180). -/
theorem decodeMain_length (op n8 m8 : Byte) (n16 m16 : Word) :
    (decodeMain op n8 n16).length = (decodeMain op m8 m16).length :=
  (decodeMain_of_map Instr.length n8 n16
    (fun r c => (((mainMap m8 m16).getD r []).getD c .nop).length) rfl op)

end Sys2Proof
end

