-- ==== Sys2Proof/Laws/Exec.lean ====
section
/-! SUPPORT. What no instruction changes, and what a conditional one reports, said once. Every meaning but those of the
system instructions is put together from a few updates, so a relation that is kept by those updates holds from before
the instruction to after it. `Kept`, `Steady` and `SameTaken` are such relations. -/

namespace Sys2Proof.Machine

/-! ### The updates an ordinary instruction is made of -/

/-- A relation that is reflexive and transitive and holds across every update of an ordinary instruction but the report
of a conditional one, whether it was taken. -/
structure ClosedUnderUpdates (R : State → State → Prop) : Prop where
  refl : ∀ s, R s s
  trans : ∀ {s t u}, R s t → R t u → R s u
  setPc : ∀ s v, R s (s.setPc v)
  setSp : ∀ s v, R s (s.setSp v)
  setA : ∀ s v, R s (s.setA v)
  setF : ∀ s v, R s (s.setF v)
  setBc : ∀ s v, R s (s.setBc v)
  setDe : ∀ s v, R s (s.setDe v)
  setHl : ∀ s v, R s (s.setHl v)
  logWrite : ∀ s r, R s (s.logWrite r)
  storeByte : ∀ s a v, R s (s.storeByte a v)

variable {R : State → State → Prop} (H : ClosedUnderUpdates R)
include H

theorem ClosedUnderUpdates.setFlags (s : State) (z n h c : Option Bool) : R s (s.setFlags z n h c) := H.setF s _

theorem ClosedUnderUpdates.storeBytes (s : State) (a : Word) (bytes : List Byte) : R s (s.storeBytes a bytes) := by
  induction bytes generalizing s a with
  | nil => exact H.refl s
  | cons v vs ih => exact H.trans (H.storeByte s a v) (ih _ _)

theorem ClosedUnderUpdates.memWrite (s : State) (label : WriteLabel) (a : Word) (bytes : List Byte) :
    R s (s.memWrite label a bytes) :=
  H.trans (H.logWrite s _) (H.storeBytes _ _ _)

theorem ClosedUnderUpdates.push16 (s : State) (label : WriteLabel) (v : Word) : R s (s.push16 label v) :=
  H.trans (H.setSp s _) (H.memWrite _ _ _ _)

theorem ClosedUnderUpdates.writeR8 (s : State) (r : R8) (v : Byte) : R s (s.writeR8 r v) := by
  cases r
  case mHL => exact H.memWrite _ _ _ _
  case a => exact H.setA _ _
  case b => exact H.setBc _ _
  case c => exact H.setBc _ _
  case d => exact H.setDe _ _
  case e => exact H.setDe _ _
  case h => exact H.setHl _ _
  case l => exact H.setHl _ _

theorem ClosedUnderUpdates.writeR16 (s : State) (rr : R16) (v : Word) : R s (s.writeR16 rr v) := by
  cases rr
  case bc => exact H.setBc _ _
  case de => exact H.setDe _ _
  case hl => exact H.setHl _ _
  case sp => exact H.setSp _ _

theorem ClosedUnderUpdates.writeStk (s : State) (rr : R16Stk) (v : Word) : R s (s.writeStk rr v) := by
  cases rr
  case bc => exact H.setBc _ _
  case de => exact H.setDe _ _
  case hl => exact H.setHl _ _
  case af => exact H.trans (H.setA _ _) (H.setF _ _)

theorem ClosedUnderUpdates.stepPointer (s : State) (p : R16Mem) : R s (s.stepPointer p) := by
  cases p
  case bc => exact H.refl _
  case de => exact H.refl _
  case hlInc => exact H.setHl _ _
  case hlDec => exact H.setHl _ _

theorem ClosedUnderUpdates.aluOp (s : State) (op : AluOp) (v : Byte) : R s (s.aluOp op v) := by
  cases op
  case cp => exact H.setFlags _ _ _ _ _
  all_goals exact H.trans (H.setA _ _) (H.setFlags _ _ _ _ _)

theorem ClosedUnderUpdates.callTo (s : State) (label : WriteLabel) (target : Word) : R s (s.callTo label target) :=
  H.trans (H.push16 s _ _) (H.setPc _ _)

theorem ClosedUnderUpdates.returnPop (s : State) : R s s.returnPop := H.trans (H.setSp s _) (H.setPc _ _)

/-- A conditional transfer. -/
theorem ClosedUnderUpdates.conditional (hT : ∀ s v, R s (s.setTaken v)) {s t : State} {c : Prop} [Decidable c]
    (h : R s t) :
    R s (if c then t.setTaken true else s.setTaken false) := by
  split
  · exact H.trans h (hT _ _)
  · exact hT _ _

/-- The instruction of a CB-opcode is made of these updates. -/
theorem ClosedUnderUpdates.runCB {s t : State} {op : Byte} (h : s.runCB op = .next t) : R s t := by
  unfold State.runCB at h
  split at h <;> cases h
  · exact H.trans (H.writeR8 _ _ _) (H.setFlags _ _ _ _ _)
  · exact H.setFlags _ _ _ _ _
  · exact H.writeR8 _ _ _
  · exact H.writeR8 _ _ _

omit H in
/-- The forms that are not put together from these updates alone: the system instructions, RETI, the prefix and the
invalid rows. -/
def Form.isSystem : Form → Bool
  | .stop _ | .halt | .di | .ei | .reti | .prefixCB | .invalid _ => true
  | _ => false

/-- Every other instruction is made of these updates, and completes; a conditional one also reports whether it was
taken. -/
theorem ClosedUnderUpdates.exec {i : Instr} {s t : State} (hi : Form.isSystem i.form = false)
    (hT : Form.condition i.form = none ∨ ∀ s v, R s (s.setTaken v)) (h : exec i s = .next t) : R s t := by
  rw [exec_eq_familyMeaning] at h
  generalize i.form = f at h hi hT
  cases f <;> first | exact Bool.noConfusion hi | cases h
  case nop => exact H.refl _
  case ld => exact H.writeR8 _ _ _
  case ldImm => exact H.writeR8 _ _ _
  case ldAInd => exact H.trans (H.setA _ _) (H.stepPointer _ _)
  case ldIndA => exact H.trans (H.memWrite _ _ _ _) (H.stepPointer _ _)
  case ldAMa16 => exact H.setA _ _
  case ldMa16A => exact H.memWrite _ _ _ _
  case ldhAMa8 => exact H.setA _ _
  case ldhMa8A => exact H.memWrite _ _ _ _
  case ldAMc => exact H.setA _ _
  case ldMcA => exact H.memWrite _ _ _ _
  case ld16 => exact H.writeR16 _ _ _
  case ldMa16Sp => exact H.memWrite _ _ _ _
  case ldSpHl => exact H.setSp _ _
  case ldHlSp => exact H.trans (H.setHl _ _) (H.setFlags _ _ _ _ _)
  case push => exact H.push16 _ _ _
  case pop => exact H.trans (H.setSp _ _) (H.writeStk _ _ _)
  case alu => exact H.aluOp _ _ _
  case aluImm => exact H.aluOp _ _ _
  case inc => exact H.trans (H.writeR8 _ _ _) (H.setFlags _ _ _ _ _)
  case dec => exact H.trans (H.writeR8 _ _ _) (H.setFlags _ _ _ _ _)
  case inc16 => exact H.writeR16 _ _ _
  case dec16 => exact H.writeR16 _ _ _
  case addHl => exact H.trans (H.setHl _ _) (H.setFlags _ _ _ _ _)
  case addSp => exact H.trans (H.setSp _ _) (H.setFlags _ _ _ _ _)
  case rlca => exact H.trans (H.setA _ _) (H.setFlags _ _ _ _ _)
  case rrca => exact H.trans (H.setA _ _) (H.setFlags _ _ _ _ _)
  case rla => exact H.trans (H.setA _ _) (H.setFlags _ _ _ _ _)
  case rra => exact H.trans (H.setA _ _) (H.setFlags _ _ _ _ _)
  case daa => exact H.trans (H.setA _ _) (H.setFlags _ _ _ _ _)
  case cpl => exact H.trans (H.setA _ _) (H.setFlags _ _ _ _ _)
  case scf => exact H.setFlags _ _ _ _ _
  case ccf => exact H.setFlags _ _ _ _ _
  case jp => exact H.setPc _ _
  case jpCond => exact H.conditional (hT.resolve_left nofun) (H.setPc _ _)
  case jpHL => exact H.setPc _ _
  case jr => exact H.setPc _ _
  case jrCond => exact H.conditional (hT.resolve_left nofun) (H.setPc _ _)
  case call => exact H.callTo _ _ _
  case callCond => exact H.conditional (hT.resolve_left nofun) (H.callTo _ _ _)
  case ret => exact H.returnPop _
  case retCond => exact H.conditional (hT.resolve_left nofun) (H.returnPop _)
  case rst => exact H.callTo _ _ _
  case rot => exact H.trans (H.writeR8 _ _ _) (H.setFlags _ _ _ _ _)
  case bit => exact H.setFlags _ _ _ _ _
  case res => exact H.writeR8 _ _ _
  case set => exact H.writeR8 _ _ _

omit H

/-! ### What no instruction writes -/

/-- `t` has the fields of `s` that no meaning writes: OPERAND_VALUE, IR, PREFIXED, CYCLES, FAULT, the parameters, the
bus map, the inputs, the draw counter, the first-step mark, the last snapshot, and the latch but for its write log and
`taken`; memory stays canonical and F[3:0] stays 0. -/
structure Kept (s t : State) : Prop where
  ir : t.cpu.ir = s.cpu.ir
  prefixed : t.cpu.prefixed = s.cpu.prefixed
  operandValue : t.cpu.operandValue = s.cpu.operandValue
  cycles : t.cpu.cycles = s.cpu.cycles
  fault : t.cpu.fault = s.cpu.fault
  params : t.params = s.params
  regions : t.bus.regions = s.bus.regions
  irqFromIf : t.bus.irqFromIf = s.bus.irqFromIf
  inputs : t.inputs = s.inputs
  draws : t.draws = s.draws
  stepped : t.stepped = s.stepped
  snapshot : t.snapshot = s.snapshot
  latch : t.cur = { s.cur with writes := t.cur.writes, taken := t.cur.taken }
  wf : Memory.wf s.bus.mem → Memory.wf t.bus.mem
  low : s.cpu.f.extractLsb' 0 4 = 0#4 → t.cpu.f.extractLsb' 0 4 = 0#4

theorem Kept.refl (s : State) : Kept s s :=
  ⟨rfl, rfl, rfl, rfl, rfl, rfl, rfl, rfl, rfl, rfl, rfl, rfl, rfl, id, id⟩

theorem Kept.trans {s t u : State} (h : Kept s t) (k : Kept t u) : Kept s u where
  ir := k.ir.trans h.ir
  prefixed := k.prefixed.trans h.prefixed
  operandValue := k.operandValue.trans h.operandValue
  cycles := k.cycles.trans h.cycles
  fault := k.fault.trans h.fault
  params := k.params.trans h.params
  regions := k.regions.trans h.regions
  irqFromIf := k.irqFromIf.trans h.irqFromIf
  inputs := k.inputs.trans h.inputs
  draws := k.draws.trans h.draws
  stepped := k.stepped.trans h.stepped
  snapshot := k.snapshot.trans h.snapshot
  latch := by rw [k.latch, h.latch]
  wf := k.wf ∘ h.wf
  low := k.low ∘ h.low

/-- The fields of a state that an update leaves by definition. -/
theorem Kept.of_rfl {s t : State} (hc : t.cpu = { s.cpu with
      pc := t.cpu.pc, sp := t.cpu.sp, a := t.cpu.a, f := t.cpu.f, bc := t.cpu.bc, de := t.cpu.de, hl := t.cpu.hl,
      ie := t.cpu.ie, ime := t.cpu.ime, halted := t.cpu.halted, imeScheduled := t.cpu.imeScheduled,
      stopped := t.cpu.stopped, haltBugArmed := t.cpu.haltBugArmed })
    (hs : t = { s with cpu := t.cpu, cur := { s.cur with writes := t.cur.writes, taken := t.cur.taken } })
    (hf : s.cpu.f.extractLsb' 0 4 = 0#4 → t.cpu.f.extractLsb' 0 4 = 0#4) : Kept s t := by
  rw [hs, hc]
  exact ⟨rfl, rfl, rfl, rfl, rfl, rfl, rfl, rfl, rfl, rfl, rfl, rfl, rfl, id, hf⟩

theorem kept_storeByte (s : State) (a : Word) (v : Byte) : Kept s (s.storeByte a v) where
  ir := by simp
  prefixed := by simp
  operandValue := by simp
  cycles := by simp
  fault := by simp
  params := by simp
  regions := by simp
  irqFromIf := by simp
  inputs := by simp
  draws := by simp
  stepped := by simp
  snapshot := by simp
  latch := by simp
  wf h := State.storeByte_wf h a v
  low := by simp

theorem kept_closed : ClosedUnderUpdates Kept where
  refl := Kept.refl
  trans := Kept.trans
  setPc _ _ := .of_rfl rfl rfl id
  setSp _ _ := .of_rfl rfl rfl id
  setA _ _ := .of_rfl rfl rfl id
  setF _ v := .of_rfl rfl rfl fun _ => masked_low v
  setBc _ _ := .of_rfl rfl rfl id
  setDe _ _ := .of_rfl rfl rfl id
  setHl _ _ := .of_rfl rfl rfl id
  logWrite _ _ := .of_rfl rfl rfl id
  storeByte := kept_storeByte

/-- No instruction that completes changes what `Kept` names, the row PREFIX CB apart. -/
theorem kept_exec {i : Instr} {s t : State} (hp : i.isPrefix = false) (h : exec i s = .next t) : Kept s t := by
  by_cases hs : Form.isSystem i.form = false
  · exact kept_closed.exec hs (.inr fun _ _ => .of_rfl rfl rfl id) h
  rw [exec_eq_familyMeaning] at h
  have hp' : i.form ≠ .prefixCB := fun e => by simp [(isPrefix_iff i).2 e] at hp
  generalize i.form = f at h hp' hs
  cases f <;> try exact absurd rfl hs
  case halt =>
    simp only [familyMeaning, execHalt] at h
    split at h
    · cases h
      exact .of_rfl rfl rfl id
    · split_ifs at h <;> cases h
      · exact Kept.refl _
      · exact .of_rfl rfl rfl id
      · exact Kept.refl _
  case prefixCB => exact absurd rfl hp'
  case invalid => cases h
  all_goals
    cases h
    exact .of_rfl rfl rfl id

/-! ### The control bits -/

/-- IME, IME_SCHEDULED, HALTED, STOPPED and HALT_BUG_ARMED are as before. -/
structure Steady (s t : State) : Prop where
  ime : t.cpu.ime = s.cpu.ime
  imeScheduled : t.cpu.imeScheduled = s.cpu.imeScheduled
  halted : t.cpu.halted = s.cpu.halted
  stopped : t.cpu.stopped = s.cpu.stopped
  haltBugArmed : t.cpu.haltBugArmed = s.cpu.haltBugArmed

theorem steady_closed : ClosedUnderUpdates Steady where
  refl _ := ⟨rfl, rfl, rfl, rfl, rfl⟩
  trans h k := ⟨k.1.trans h.1, k.2.trans h.2, k.3.trans h.3, k.4.trans h.4, k.5.trans h.5⟩
  setPc _ _ := ⟨rfl, rfl, rfl, rfl, rfl⟩
  setSp _ _ := ⟨rfl, rfl, rfl, rfl, rfl⟩
  setA _ _ := ⟨rfl, rfl, rfl, rfl, rfl⟩
  setF _ _ := ⟨rfl, rfl, rfl, rfl, rfl⟩
  setBc _ _ := ⟨rfl, rfl, rfl, rfl, rfl⟩
  setDe _ _ := ⟨rfl, rfl, rfl, rfl, rfl⟩
  setHl _ _ := ⟨rfl, rfl, rfl, rfl, rfl⟩
  logWrite _ _ := ⟨rfl, rfl, rfl, rfl, rfl⟩
  storeByte s a v := ⟨by simp, by simp, by simp, by simp, by simp⟩

/-- Only STOP, HALT, DI, EI and RETI write a control bit, the row PREFIX CB apart. -/
theorem steady_exec {i : Instr} {s t : State} (hi : Form.isSystem i.form = false) (h : exec i s = .next t) :
    Steady s t := steady_closed.exec hi (.inr fun _ _ => ⟨rfl, rfl, rfl, rfl, rfl⟩) h

/-! ### The report of a conditional instruction -/

/-- The latch's `taken` is as before. -/
def SameTaken (s t : State) : Prop := t.cur.taken = s.cur.taken

theorem sameTaken_closed : ClosedUnderUpdates SameTaken where
  refl _ := rfl
  trans h k := k.trans h
  setPc _ _ := rfl
  setSp _ _ := rfl
  setA _ _ := rfl
  setF _ _ := rfl
  setBc _ _ := rfl
  setDe _ _ := rfl
  setHl _ _ := rfl
  logWrite _ _ := rfl
  storeByte s a v := by simp [SameTaken]

/-- A conditional instruction reports whether its condition held; no other one writes the report, the row PREFIX CB
apart. -/
theorem exec_taken {i : Instr} {s t : State} (hp : i.isPrefix = false) (h : exec i s = .next t) :
    t.cur.taken = ((Form.condition i.form).map s.cond).getD s.cur.taken := by
  cases hc : Form.condition i.form with
  | none =>
    by_cases hs : Form.isSystem i.form = false
    · exact sameTaken_closed.exec hs (.inl hc) h
    · rw [exec_eq_familyMeaning] at h
      have hp' : i.form ≠ .prefixCB := fun e => by simp [(isPrefix_iff i).2 e] at hp
      generalize i.form = f at h hp' hs
      cases f <;> try exact absurd rfl hs
      case halt =>
        simp only [familyMeaning, execHalt] at h
        split at h
        · cases h
          rfl
        · split_ifs at h <;> cases h <;> rfl
      case prefixCB => exact absurd rfl hp'
      case invalid => cases h
      all_goals
        cases h
        rfl
  | some cc =>
    rw [exec_eq_familyMeaning] at h
    generalize i.form = f at h hc
    cases f <;> cases hc <;> cases h <;> cases hv : s.cond cc <;> simp [hv]

/-- Every row but the prefix and the invalid ones reports the count its descriptor selects. -/
theorem reportedCount_eq (f : Form) (held : Cond → Bool) (hp : f ≠ .prefixCB) (hi : ∀ op, f ≠ .invalid op) :
    reportedCount f held = some (selectCycles (Form.cycles f) (((Form.condition f).map held).getD true)) := by
  cases f
  case prefixCB => exact absurd rfl hp
  case invalid op => exact absurd rfl (hi op)
  all_goals
    simp only [reportedCount, Form.cycles, Form.condition, R8.count]
    first
    | rfl
    | (split_ifs <;> rfl)

end Sys2Proof.Machine
end

