-- ==== Sys2Proof/Laws/PerInstr.lean ====
section
/-! SUPPORT. Two families, one lemma a constructor of `Instr` in each. FormBytes: the bytes of a row are as many as its
length says, one to three (spec/30_encoding.md R180). WindowBack: the three-byte window that begins with the bytes of a
well-formed row decodes to the row. -/

namespace Sys2Proof.Laws.FormBytes

/-- The encoder writes as many bytes as the row's length, and that is 1, 2 or 3 (spec/30_encoding.md R180). -/
def Statement (i : Instr) : Prop := (encode i).length = i.length ∧ 1 ≤ i.length ∧ i.length ≤ 3

/-- What every constructor's lemma checks, by evaluation. -/
theorem of_length {i : Instr} {n : Nat} (h1 : (encode i).length = n) (h2 : i.length = n) (h3 : 1 ≤ n ∧ n ≤ 3) :
    Statement i := by
  subst h2
  exact ⟨h1, h3⟩

theorem ldBcD16 (d16 : Word) : Statement (.ldBcD16 d16) := of_length (n := 3) rfl rfl (by decide)
theorem ldBD8 (d8 : Byte) : Statement (.ldBD8 d8) := of_length (n := 2) rfl rfl (by decide)
theorem ldMa16Sp (a16 : Word) : Statement (.ldMa16Sp a16) := of_length (n := 3) rfl rfl (by decide)
theorem ldCD8 (d8 : Byte) : Statement (.ldCD8 d8) := of_length (n := 2) rfl rfl (by decide)
theorem stop (ignored : Byte) : Statement (.stop ignored) := of_length (n := 2) rfl rfl (by decide)
theorem ldDeD16 (d16 : Word) : Statement (.ldDeD16 d16) := of_length (n := 3) rfl rfl (by decide)
theorem ldDD8 (d8 : Byte) : Statement (.ldDD8 d8) := of_length (n := 2) rfl rfl (by decide)
theorem jrE8 (e8 : Byte) : Statement (.jrE8 e8) := of_length (n := 2) rfl rfl (by decide)
theorem ldED8 (d8 : Byte) : Statement (.ldED8 d8) := of_length (n := 2) rfl rfl (by decide)
theorem jrNzE8 (e8 : Byte) : Statement (.jrNzE8 e8) := of_length (n := 2) rfl rfl (by decide)
theorem ldHlD16 (d16 : Word) : Statement (.ldHlD16 d16) := of_length (n := 3) rfl rfl (by decide)
theorem ldHD8 (d8 : Byte) : Statement (.ldHD8 d8) := of_length (n := 2) rfl rfl (by decide)
theorem jrZE8 (e8 : Byte) : Statement (.jrZE8 e8) := of_length (n := 2) rfl rfl (by decide)
theorem ldLD8 (d8 : Byte) : Statement (.ldLD8 d8) := of_length (n := 2) rfl rfl (by decide)
theorem jrNcE8 (e8 : Byte) : Statement (.jrNcE8 e8) := of_length (n := 2) rfl rfl (by decide)
theorem ldSpD16 (d16 : Word) : Statement (.ldSpD16 d16) := of_length (n := 3) rfl rfl (by decide)
theorem ldMhlD8 (d8 : Byte) : Statement (.ldMhlD8 d8) := of_length (n := 2) rfl rfl (by decide)
theorem jrCE8 (e8 : Byte) : Statement (.jrCE8 e8) := of_length (n := 2) rfl rfl (by decide)
theorem ldAD8 (d8 : Byte) : Statement (.ldAD8 d8) := of_length (n := 2) rfl rfl (by decide)
theorem jpNzA16 (a16 : Word) : Statement (.jpNzA16 a16) := of_length (n := 3) rfl rfl (by decide)
theorem jpA16 (a16 : Word) : Statement (.jpA16 a16) := of_length (n := 3) rfl rfl (by decide)
theorem callNzA16 (a16 : Word) : Statement (.callNzA16 a16) := of_length (n := 3) rfl rfl (by decide)
theorem addAD8 (d8 : Byte) : Statement (.addAD8 d8) := of_length (n := 2) rfl rfl (by decide)
theorem jpZA16 (a16 : Word) : Statement (.jpZA16 a16) := of_length (n := 3) rfl rfl (by decide)
theorem callZA16 (a16 : Word) : Statement (.callZA16 a16) := of_length (n := 3) rfl rfl (by decide)
theorem callA16 (a16 : Word) : Statement (.callA16 a16) := of_length (n := 3) rfl rfl (by decide)
theorem adcAD8 (d8 : Byte) : Statement (.adcAD8 d8) := of_length (n := 2) rfl rfl (by decide)
theorem jpNcA16 (a16 : Word) : Statement (.jpNcA16 a16) := of_length (n := 3) rfl rfl (by decide)
theorem callNcA16 (a16 : Word) : Statement (.callNcA16 a16) := of_length (n := 3) rfl rfl (by decide)
theorem subD8 (d8 : Byte) : Statement (.subD8 d8) := of_length (n := 2) rfl rfl (by decide)
theorem jpCA16 (a16 : Word) : Statement (.jpCA16 a16) := of_length (n := 3) rfl rfl (by decide)
theorem callCA16 (a16 : Word) : Statement (.callCA16 a16) := of_length (n := 3) rfl rfl (by decide)
theorem sbcAD8 (d8 : Byte) : Statement (.sbcAD8 d8) := of_length (n := 2) rfl rfl (by decide)
theorem ldhMa8A (a8 : Byte) : Statement (.ldhMa8A a8) := of_length (n := 2) rfl rfl (by decide)
theorem andD8 (d8 : Byte) : Statement (.andD8 d8) := of_length (n := 2) rfl rfl (by decide)
theorem addSpE8 (e8 : Byte) : Statement (.addSpE8 e8) := of_length (n := 2) rfl rfl (by decide)
theorem ldMa16A (a16 : Word) : Statement (.ldMa16A a16) := of_length (n := 3) rfl rfl (by decide)
theorem xorD8 (d8 : Byte) : Statement (.xorD8 d8) := of_length (n := 2) rfl rfl (by decide)
theorem ldhAMa8 (a8 : Byte) : Statement (.ldhAMa8 a8) := of_length (n := 2) rfl rfl (by decide)
theorem orD8 (d8 : Byte) : Statement (.orD8 d8) := of_length (n := 2) rfl rfl (by decide)
theorem ldHlSpE8 (e8 : Byte) : Statement (.ldHlSpE8 e8) := of_length (n := 2) rfl rfl (by decide)
theorem ldAMa16 (a16 : Word) : Statement (.ldAMa16 a16) := of_length (n := 3) rfl rfl (by decide)
theorem cpD8 (d8 : Byte) : Statement (.cpD8 d8) := of_length (n := 2) rfl rfl (by decide)
theorem bitB (b : BitVec 3) : Statement (.bitB b) := of_length (n := 2) rfl rfl (by decide)
theorem bitC (b : BitVec 3) : Statement (.bitC b) := of_length (n := 2) rfl rfl (by decide)
theorem bitD (b : BitVec 3) : Statement (.bitD b) := of_length (n := 2) rfl rfl (by decide)
theorem bitE (b : BitVec 3) : Statement (.bitE b) := of_length (n := 2) rfl rfl (by decide)
theorem bitH (b : BitVec 3) : Statement (.bitH b) := of_length (n := 2) rfl rfl (by decide)
theorem bitL (b : BitVec 3) : Statement (.bitL b) := of_length (n := 2) rfl rfl (by decide)
theorem bitMhl (b : BitVec 3) : Statement (.bitMhl b) := of_length (n := 2) rfl rfl (by decide)
theorem bitA (b : BitVec 3) : Statement (.bitA b) := of_length (n := 2) rfl rfl (by decide)
theorem resB (b : BitVec 3) : Statement (.resB b) := of_length (n := 2) rfl rfl (by decide)
theorem resC (b : BitVec 3) : Statement (.resC b) := of_length (n := 2) rfl rfl (by decide)
theorem resD (b : BitVec 3) : Statement (.resD b) := of_length (n := 2) rfl rfl (by decide)
theorem resE (b : BitVec 3) : Statement (.resE b) := of_length (n := 2) rfl rfl (by decide)
theorem resH (b : BitVec 3) : Statement (.resH b) := of_length (n := 2) rfl rfl (by decide)
theorem resL (b : BitVec 3) : Statement (.resL b) := of_length (n := 2) rfl rfl (by decide)
theorem resMhl (b : BitVec 3) : Statement (.resMhl b) := of_length (n := 2) rfl rfl (by decide)
theorem resA (b : BitVec 3) : Statement (.resA b) := of_length (n := 2) rfl rfl (by decide)
theorem setB (b : BitVec 3) : Statement (.setB b) := of_length (n := 2) rfl rfl (by decide)
theorem setC (b : BitVec 3) : Statement (.setC b) := of_length (n := 2) rfl rfl (by decide)
theorem setD (b : BitVec 3) : Statement (.setD b) := of_length (n := 2) rfl rfl (by decide)
theorem setE (b : BitVec 3) : Statement (.setE b) := of_length (n := 2) rfl rfl (by decide)
theorem setH (b : BitVec 3) : Statement (.setH b) := of_length (n := 2) rfl rfl (by decide)
theorem setL (b : BitVec 3) : Statement (.setL b) := of_length (n := 2) rfl rfl (by decide)
theorem setMhl (b : BitVec 3) : Statement (.setMhl b) := of_length (n := 2) rfl rfl (by decide)
theorem setA (b : BitVec 3) : Statement (.setA b) := of_length (n := 2) rfl rfl (by decide)
theorem nop : Statement .nop := of_length (n := 1) rfl rfl (by decide)
theorem ldMbcA : Statement .ldMbcA := of_length (n := 1) rfl rfl (by decide)
theorem incBc : Statement .incBc := of_length (n := 1) rfl rfl (by decide)
theorem incB : Statement .incB := of_length (n := 1) rfl rfl (by decide)
theorem decB : Statement .decB := of_length (n := 1) rfl rfl (by decide)
theorem rlca : Statement .rlca := of_length (n := 1) rfl rfl (by decide)
theorem addHlBc : Statement .addHlBc := of_length (n := 1) rfl rfl (by decide)
theorem ldAMbc : Statement .ldAMbc := of_length (n := 1) rfl rfl (by decide)
theorem decBc : Statement .decBc := of_length (n := 1) rfl rfl (by decide)
theorem incC : Statement .incC := of_length (n := 1) rfl rfl (by decide)
theorem decC : Statement .decC := of_length (n := 1) rfl rfl (by decide)
theorem rrca : Statement .rrca := of_length (n := 1) rfl rfl (by decide)
theorem ldMdeA : Statement .ldMdeA := of_length (n := 1) rfl rfl (by decide)
theorem incDe : Statement .incDe := of_length (n := 1) rfl rfl (by decide)
theorem incD : Statement .incD := of_length (n := 1) rfl rfl (by decide)
theorem decD : Statement .decD := of_length (n := 1) rfl rfl (by decide)
theorem rla : Statement .rla := of_length (n := 1) rfl rfl (by decide)
theorem addHlDe : Statement .addHlDe := of_length (n := 1) rfl rfl (by decide)
theorem ldAMde : Statement .ldAMde := of_length (n := 1) rfl rfl (by decide)
theorem decDe : Statement .decDe := of_length (n := 1) rfl rfl (by decide)
theorem incE : Statement .incE := of_length (n := 1) rfl rfl (by decide)
theorem decE : Statement .decE := of_length (n := 1) rfl rfl (by decide)
theorem rra : Statement .rra := of_length (n := 1) rfl rfl (by decide)
theorem ldMhlIncA : Statement .ldMhlIncA := of_length (n := 1) rfl rfl (by decide)
theorem incHl : Statement .incHl := of_length (n := 1) rfl rfl (by decide)
theorem incH : Statement .incH := of_length (n := 1) rfl rfl (by decide)
theorem decH : Statement .decH := of_length (n := 1) rfl rfl (by decide)
theorem daa : Statement .daa := of_length (n := 1) rfl rfl (by decide)
theorem addHlHl : Statement .addHlHl := of_length (n := 1) rfl rfl (by decide)
theorem ldAMhlInc : Statement .ldAMhlInc := of_length (n := 1) rfl rfl (by decide)
theorem decHl : Statement .decHl := of_length (n := 1) rfl rfl (by decide)
theorem incL : Statement .incL := of_length (n := 1) rfl rfl (by decide)
theorem decL : Statement .decL := of_length (n := 1) rfl rfl (by decide)
theorem cpl : Statement .cpl := of_length (n := 1) rfl rfl (by decide)
theorem ldMhlDecA : Statement .ldMhlDecA := of_length (n := 1) rfl rfl (by decide)
theorem incSp : Statement .incSp := of_length (n := 1) rfl rfl (by decide)
theorem incMhl : Statement .incMhl := of_length (n := 1) rfl rfl (by decide)
theorem decMhl : Statement .decMhl := of_length (n := 1) rfl rfl (by decide)
theorem scf : Statement .scf := of_length (n := 1) rfl rfl (by decide)
theorem addHlSp : Statement .addHlSp := of_length (n := 1) rfl rfl (by decide)
theorem ldAMhlDec : Statement .ldAMhlDec := of_length (n := 1) rfl rfl (by decide)
theorem decSp : Statement .decSp := of_length (n := 1) rfl rfl (by decide)
theorem incA : Statement .incA := of_length (n := 1) rfl rfl (by decide)
theorem decA : Statement .decA := of_length (n := 1) rfl rfl (by decide)
theorem ccf : Statement .ccf := of_length (n := 1) rfl rfl (by decide)
theorem ldBB : Statement .ldBB := of_length (n := 1) rfl rfl (by decide)
theorem ldBC : Statement .ldBC := of_length (n := 1) rfl rfl (by decide)
theorem ldBD : Statement .ldBD := of_length (n := 1) rfl rfl (by decide)
theorem ldBE : Statement .ldBE := of_length (n := 1) rfl rfl (by decide)
theorem ldBH : Statement .ldBH := of_length (n := 1) rfl rfl (by decide)
theorem ldBL : Statement .ldBL := of_length (n := 1) rfl rfl (by decide)
theorem ldBMhl : Statement .ldBMhl := of_length (n := 1) rfl rfl (by decide)
theorem ldBA : Statement .ldBA := of_length (n := 1) rfl rfl (by decide)
theorem ldCB : Statement .ldCB := of_length (n := 1) rfl rfl (by decide)
theorem ldCC : Statement .ldCC := of_length (n := 1) rfl rfl (by decide)
theorem ldCD : Statement .ldCD := of_length (n := 1) rfl rfl (by decide)
theorem ldCE : Statement .ldCE := of_length (n := 1) rfl rfl (by decide)
theorem ldCH : Statement .ldCH := of_length (n := 1) rfl rfl (by decide)
theorem ldCL : Statement .ldCL := of_length (n := 1) rfl rfl (by decide)
theorem ldCMhl : Statement .ldCMhl := of_length (n := 1) rfl rfl (by decide)
theorem ldCA : Statement .ldCA := of_length (n := 1) rfl rfl (by decide)
theorem ldDB : Statement .ldDB := of_length (n := 1) rfl rfl (by decide)
theorem ldDC : Statement .ldDC := of_length (n := 1) rfl rfl (by decide)
theorem ldDD : Statement .ldDD := of_length (n := 1) rfl rfl (by decide)
theorem ldDE : Statement .ldDE := of_length (n := 1) rfl rfl (by decide)
theorem ldDH : Statement .ldDH := of_length (n := 1) rfl rfl (by decide)
theorem ldDL : Statement .ldDL := of_length (n := 1) rfl rfl (by decide)
theorem ldDMhl : Statement .ldDMhl := of_length (n := 1) rfl rfl (by decide)
theorem ldDA : Statement .ldDA := of_length (n := 1) rfl rfl (by decide)
theorem ldEB : Statement .ldEB := of_length (n := 1) rfl rfl (by decide)
theorem ldEC : Statement .ldEC := of_length (n := 1) rfl rfl (by decide)
theorem ldED : Statement .ldED := of_length (n := 1) rfl rfl (by decide)
theorem ldEE : Statement .ldEE := of_length (n := 1) rfl rfl (by decide)
theorem ldEH : Statement .ldEH := of_length (n := 1) rfl rfl (by decide)
theorem ldEL : Statement .ldEL := of_length (n := 1) rfl rfl (by decide)
theorem ldEMhl : Statement .ldEMhl := of_length (n := 1) rfl rfl (by decide)
theorem ldEA : Statement .ldEA := of_length (n := 1) rfl rfl (by decide)
theorem ldHB : Statement .ldHB := of_length (n := 1) rfl rfl (by decide)
theorem ldHC : Statement .ldHC := of_length (n := 1) rfl rfl (by decide)
theorem ldHD : Statement .ldHD := of_length (n := 1) rfl rfl (by decide)
theorem ldHE : Statement .ldHE := of_length (n := 1) rfl rfl (by decide)
theorem ldHH : Statement .ldHH := of_length (n := 1) rfl rfl (by decide)
theorem ldHL : Statement .ldHL := of_length (n := 1) rfl rfl (by decide)
theorem ldHMhl : Statement .ldHMhl := of_length (n := 1) rfl rfl (by decide)
theorem ldHA : Statement .ldHA := of_length (n := 1) rfl rfl (by decide)
theorem ldLB : Statement .ldLB := of_length (n := 1) rfl rfl (by decide)
theorem ldLC : Statement .ldLC := of_length (n := 1) rfl rfl (by decide)
theorem ldLD : Statement .ldLD := of_length (n := 1) rfl rfl (by decide)
theorem ldLE : Statement .ldLE := of_length (n := 1) rfl rfl (by decide)
theorem ldLH : Statement .ldLH := of_length (n := 1) rfl rfl (by decide)
theorem ldLL : Statement .ldLL := of_length (n := 1) rfl rfl (by decide)
theorem ldLMhl : Statement .ldLMhl := of_length (n := 1) rfl rfl (by decide)
theorem ldLA : Statement .ldLA := of_length (n := 1) rfl rfl (by decide)
theorem ldMhlB : Statement .ldMhlB := of_length (n := 1) rfl rfl (by decide)
theorem ldMhlC : Statement .ldMhlC := of_length (n := 1) rfl rfl (by decide)
theorem ldMhlD : Statement .ldMhlD := of_length (n := 1) rfl rfl (by decide)
theorem ldMhlE : Statement .ldMhlE := of_length (n := 1) rfl rfl (by decide)
theorem ldMhlH : Statement .ldMhlH := of_length (n := 1) rfl rfl (by decide)
theorem ldMhlL : Statement .ldMhlL := of_length (n := 1) rfl rfl (by decide)
theorem halt : Statement .halt := of_length (n := 1) rfl rfl (by decide)
theorem ldMhlA : Statement .ldMhlA := of_length (n := 1) rfl rfl (by decide)
theorem ldAB : Statement .ldAB := of_length (n := 1) rfl rfl (by decide)
theorem ldAC : Statement .ldAC := of_length (n := 1) rfl rfl (by decide)
theorem ldAD : Statement .ldAD := of_length (n := 1) rfl rfl (by decide)
theorem ldAE : Statement .ldAE := of_length (n := 1) rfl rfl (by decide)
theorem ldAH : Statement .ldAH := of_length (n := 1) rfl rfl (by decide)
theorem ldAL : Statement .ldAL := of_length (n := 1) rfl rfl (by decide)
theorem ldAMhl : Statement .ldAMhl := of_length (n := 1) rfl rfl (by decide)
theorem ldAA : Statement .ldAA := of_length (n := 1) rfl rfl (by decide)
theorem addAB : Statement .addAB := of_length (n := 1) rfl rfl (by decide)
theorem addAC : Statement .addAC := of_length (n := 1) rfl rfl (by decide)
theorem addAD : Statement .addAD := of_length (n := 1) rfl rfl (by decide)
theorem addAE : Statement .addAE := of_length (n := 1) rfl rfl (by decide)
theorem addAH : Statement .addAH := of_length (n := 1) rfl rfl (by decide)
theorem addAL : Statement .addAL := of_length (n := 1) rfl rfl (by decide)
theorem addAMhl : Statement .addAMhl := of_length (n := 1) rfl rfl (by decide)
theorem addAA : Statement .addAA := of_length (n := 1) rfl rfl (by decide)
theorem adcAB : Statement .adcAB := of_length (n := 1) rfl rfl (by decide)
theorem adcAC : Statement .adcAC := of_length (n := 1) rfl rfl (by decide)
theorem adcAD : Statement .adcAD := of_length (n := 1) rfl rfl (by decide)
theorem adcAE : Statement .adcAE := of_length (n := 1) rfl rfl (by decide)
theorem adcAH : Statement .adcAH := of_length (n := 1) rfl rfl (by decide)
theorem adcAL : Statement .adcAL := of_length (n := 1) rfl rfl (by decide)
theorem adcAMhl : Statement .adcAMhl := of_length (n := 1) rfl rfl (by decide)
theorem adcAA : Statement .adcAA := of_length (n := 1) rfl rfl (by decide)
theorem subB : Statement .subB := of_length (n := 1) rfl rfl (by decide)
theorem subC : Statement .subC := of_length (n := 1) rfl rfl (by decide)
theorem subD : Statement .subD := of_length (n := 1) rfl rfl (by decide)
theorem subE : Statement .subE := of_length (n := 1) rfl rfl (by decide)
theorem subH : Statement .subH := of_length (n := 1) rfl rfl (by decide)
theorem subL : Statement .subL := of_length (n := 1) rfl rfl (by decide)
theorem subMhl : Statement .subMhl := of_length (n := 1) rfl rfl (by decide)
theorem subA : Statement .subA := of_length (n := 1) rfl rfl (by decide)
theorem sbcAB : Statement .sbcAB := of_length (n := 1) rfl rfl (by decide)
theorem sbcAC : Statement .sbcAC := of_length (n := 1) rfl rfl (by decide)
theorem sbcAD : Statement .sbcAD := of_length (n := 1) rfl rfl (by decide)
theorem sbcAE : Statement .sbcAE := of_length (n := 1) rfl rfl (by decide)
theorem sbcAH : Statement .sbcAH := of_length (n := 1) rfl rfl (by decide)
theorem sbcAL : Statement .sbcAL := of_length (n := 1) rfl rfl (by decide)
theorem sbcAMhl : Statement .sbcAMhl := of_length (n := 1) rfl rfl (by decide)
theorem sbcAA : Statement .sbcAA := of_length (n := 1) rfl rfl (by decide)
theorem andB : Statement .andB := of_length (n := 1) rfl rfl (by decide)
theorem andC : Statement .andC := of_length (n := 1) rfl rfl (by decide)
theorem andD : Statement .andD := of_length (n := 1) rfl rfl (by decide)
theorem andE : Statement .andE := of_length (n := 1) rfl rfl (by decide)
theorem andH : Statement .andH := of_length (n := 1) rfl rfl (by decide)
theorem andL : Statement .andL := of_length (n := 1) rfl rfl (by decide)
theorem andMhl : Statement .andMhl := of_length (n := 1) rfl rfl (by decide)
theorem andA : Statement .andA := of_length (n := 1) rfl rfl (by decide)
theorem xorB : Statement .xorB := of_length (n := 1) rfl rfl (by decide)
theorem xorC : Statement .xorC := of_length (n := 1) rfl rfl (by decide)
theorem xorD : Statement .xorD := of_length (n := 1) rfl rfl (by decide)
theorem xorE : Statement .xorE := of_length (n := 1) rfl rfl (by decide)
theorem xorH : Statement .xorH := of_length (n := 1) rfl rfl (by decide)
theorem xorL : Statement .xorL := of_length (n := 1) rfl rfl (by decide)
theorem xorMhl : Statement .xorMhl := of_length (n := 1) rfl rfl (by decide)
theorem xorA : Statement .xorA := of_length (n := 1) rfl rfl (by decide)
theorem orB : Statement .orB := of_length (n := 1) rfl rfl (by decide)
theorem orC : Statement .orC := of_length (n := 1) rfl rfl (by decide)
theorem orD : Statement .orD := of_length (n := 1) rfl rfl (by decide)
theorem orE : Statement .orE := of_length (n := 1) rfl rfl (by decide)
theorem orH : Statement .orH := of_length (n := 1) rfl rfl (by decide)
theorem orL : Statement .orL := of_length (n := 1) rfl rfl (by decide)
theorem orMhl : Statement .orMhl := of_length (n := 1) rfl rfl (by decide)
theorem orA : Statement .orA := of_length (n := 1) rfl rfl (by decide)
theorem cpB : Statement .cpB := of_length (n := 1) rfl rfl (by decide)
theorem cpC : Statement .cpC := of_length (n := 1) rfl rfl (by decide)
theorem cpD : Statement .cpD := of_length (n := 1) rfl rfl (by decide)
theorem cpE : Statement .cpE := of_length (n := 1) rfl rfl (by decide)
theorem cpH : Statement .cpH := of_length (n := 1) rfl rfl (by decide)
theorem cpL : Statement .cpL := of_length (n := 1) rfl rfl (by decide)
theorem cpMhl : Statement .cpMhl := of_length (n := 1) rfl rfl (by decide)
theorem cpA : Statement .cpA := of_length (n := 1) rfl rfl (by decide)
theorem retNz : Statement .retNz := of_length (n := 1) rfl rfl (by decide)
theorem popBc : Statement .popBc := of_length (n := 1) rfl rfl (by decide)
theorem pushBc : Statement .pushBc := of_length (n := 1) rfl rfl (by decide)
theorem rst00h : Statement .rst00h := of_length (n := 1) rfl rfl (by decide)
theorem retZ : Statement .retZ := of_length (n := 1) rfl rfl (by decide)
theorem ret : Statement .ret := of_length (n := 1) rfl rfl (by decide)
theorem prefixCb : Statement .prefixCb := of_length (n := 1) rfl rfl (by decide)
theorem rst08h : Statement .rst08h := of_length (n := 1) rfl rfl (by decide)
theorem retNc : Statement .retNc := of_length (n := 1) rfl rfl (by decide)
theorem popDe : Statement .popDe := of_length (n := 1) rfl rfl (by decide)
theorem invalidD3 : Statement .invalidD3 := of_length (n := 1) rfl rfl (by decide)
theorem pushDe : Statement .pushDe := of_length (n := 1) rfl rfl (by decide)
theorem rst10h : Statement .rst10h := of_length (n := 1) rfl rfl (by decide)
theorem retC : Statement .retC := of_length (n := 1) rfl rfl (by decide)
theorem reti : Statement .reti := of_length (n := 1) rfl rfl (by decide)
theorem invalidDB : Statement .invalidDB := of_length (n := 1) rfl rfl (by decide)
theorem invalidDD : Statement .invalidDD := of_length (n := 1) rfl rfl (by decide)
theorem rst18h : Statement .rst18h := of_length (n := 1) rfl rfl (by decide)
theorem popHl : Statement .popHl := of_length (n := 1) rfl rfl (by decide)
theorem ldMcA : Statement .ldMcA := of_length (n := 1) rfl rfl (by decide)
theorem invalidE3 : Statement .invalidE3 := of_length (n := 1) rfl rfl (by decide)
theorem invalidE4 : Statement .invalidE4 := of_length (n := 1) rfl rfl (by decide)
theorem pushHl : Statement .pushHl := of_length (n := 1) rfl rfl (by decide)
theorem rst20h : Statement .rst20h := of_length (n := 1) rfl rfl (by decide)
theorem jpHl : Statement .jpHl := of_length (n := 1) rfl rfl (by decide)
theorem invalidEB : Statement .invalidEB := of_length (n := 1) rfl rfl (by decide)
theorem invalidEC : Statement .invalidEC := of_length (n := 1) rfl rfl (by decide)
theorem invalidED : Statement .invalidED := of_length (n := 1) rfl rfl (by decide)
theorem rst28h : Statement .rst28h := of_length (n := 1) rfl rfl (by decide)
theorem popAf : Statement .popAf := of_length (n := 1) rfl rfl (by decide)
theorem ldAMc : Statement .ldAMc := of_length (n := 1) rfl rfl (by decide)
theorem di : Statement .di := of_length (n := 1) rfl rfl (by decide)
theorem invalidF4 : Statement .invalidF4 := of_length (n := 1) rfl rfl (by decide)
theorem pushAf : Statement .pushAf := of_length (n := 1) rfl rfl (by decide)
theorem rst30h : Statement .rst30h := of_length (n := 1) rfl rfl (by decide)
theorem ldSpHl : Statement .ldSpHl := of_length (n := 1) rfl rfl (by decide)
theorem ei : Statement .ei := of_length (n := 1) rfl rfl (by decide)
theorem invalidFC : Statement .invalidFC := of_length (n := 1) rfl rfl (by decide)
theorem invalidFD : Statement .invalidFD := of_length (n := 1) rfl rfl (by decide)
theorem rst38h : Statement .rst38h := of_length (n := 1) rfl rfl (by decide)
theorem rlcB : Statement .rlcB := of_length (n := 2) rfl rfl (by decide)
theorem rlcC : Statement .rlcC := of_length (n := 2) rfl rfl (by decide)
theorem rlcD : Statement .rlcD := of_length (n := 2) rfl rfl (by decide)
theorem rlcE : Statement .rlcE := of_length (n := 2) rfl rfl (by decide)
theorem rlcH : Statement .rlcH := of_length (n := 2) rfl rfl (by decide)
theorem rlcL : Statement .rlcL := of_length (n := 2) rfl rfl (by decide)
theorem rlcMhl : Statement .rlcMhl := of_length (n := 2) rfl rfl (by decide)
theorem rlcA : Statement .rlcA := of_length (n := 2) rfl rfl (by decide)
theorem rrcB : Statement .rrcB := of_length (n := 2) rfl rfl (by decide)
theorem rrcC : Statement .rrcC := of_length (n := 2) rfl rfl (by decide)
theorem rrcD : Statement .rrcD := of_length (n := 2) rfl rfl (by decide)
theorem rrcE : Statement .rrcE := of_length (n := 2) rfl rfl (by decide)
theorem rrcH : Statement .rrcH := of_length (n := 2) rfl rfl (by decide)
theorem rrcL : Statement .rrcL := of_length (n := 2) rfl rfl (by decide)
theorem rrcMhl : Statement .rrcMhl := of_length (n := 2) rfl rfl (by decide)
theorem rrcA : Statement .rrcA := of_length (n := 2) rfl rfl (by decide)
theorem rlB : Statement .rlB := of_length (n := 2) rfl rfl (by decide)
theorem rlC : Statement .rlC := of_length (n := 2) rfl rfl (by decide)
theorem rlD : Statement .rlD := of_length (n := 2) rfl rfl (by decide)
theorem rlE : Statement .rlE := of_length (n := 2) rfl rfl (by decide)
theorem rlH : Statement .rlH := of_length (n := 2) rfl rfl (by decide)
theorem rlL : Statement .rlL := of_length (n := 2) rfl rfl (by decide)
theorem rlMhl : Statement .rlMhl := of_length (n := 2) rfl rfl (by decide)
theorem rlA : Statement .rlA := of_length (n := 2) rfl rfl (by decide)
theorem rrB : Statement .rrB := of_length (n := 2) rfl rfl (by decide)
theorem rrC : Statement .rrC := of_length (n := 2) rfl rfl (by decide)
theorem rrD : Statement .rrD := of_length (n := 2) rfl rfl (by decide)
theorem rrE : Statement .rrE := of_length (n := 2) rfl rfl (by decide)
theorem rrH : Statement .rrH := of_length (n := 2) rfl rfl (by decide)
theorem rrL : Statement .rrL := of_length (n := 2) rfl rfl (by decide)
theorem rrMhl : Statement .rrMhl := of_length (n := 2) rfl rfl (by decide)
theorem rrA : Statement .rrA := of_length (n := 2) rfl rfl (by decide)
theorem slaB : Statement .slaB := of_length (n := 2) rfl rfl (by decide)
theorem slaC : Statement .slaC := of_length (n := 2) rfl rfl (by decide)
theorem slaD : Statement .slaD := of_length (n := 2) rfl rfl (by decide)
theorem slaE : Statement .slaE := of_length (n := 2) rfl rfl (by decide)
theorem slaH : Statement .slaH := of_length (n := 2) rfl rfl (by decide)
theorem slaL : Statement .slaL := of_length (n := 2) rfl rfl (by decide)
theorem slaMhl : Statement .slaMhl := of_length (n := 2) rfl rfl (by decide)
theorem slaA : Statement .slaA := of_length (n := 2) rfl rfl (by decide)
theorem sraB : Statement .sraB := of_length (n := 2) rfl rfl (by decide)
theorem sraC : Statement .sraC := of_length (n := 2) rfl rfl (by decide)
theorem sraD : Statement .sraD := of_length (n := 2) rfl rfl (by decide)
theorem sraE : Statement .sraE := of_length (n := 2) rfl rfl (by decide)
theorem sraH : Statement .sraH := of_length (n := 2) rfl rfl (by decide)
theorem sraL : Statement .sraL := of_length (n := 2) rfl rfl (by decide)
theorem sraMhl : Statement .sraMhl := of_length (n := 2) rfl rfl (by decide)
theorem sraA : Statement .sraA := of_length (n := 2) rfl rfl (by decide)
theorem swapB : Statement .swapB := of_length (n := 2) rfl rfl (by decide)
theorem swapC : Statement .swapC := of_length (n := 2) rfl rfl (by decide)
theorem swapD : Statement .swapD := of_length (n := 2) rfl rfl (by decide)
theorem swapE : Statement .swapE := of_length (n := 2) rfl rfl (by decide)
theorem swapH : Statement .swapH := of_length (n := 2) rfl rfl (by decide)
theorem swapL : Statement .swapL := of_length (n := 2) rfl rfl (by decide)
theorem swapMhl : Statement .swapMhl := of_length (n := 2) rfl rfl (by decide)
theorem swapA : Statement .swapA := of_length (n := 2) rfl rfl (by decide)
theorem srlB : Statement .srlB := of_length (n := 2) rfl rfl (by decide)
theorem srlC : Statement .srlC := of_length (n := 2) rfl rfl (by decide)
theorem srlD : Statement .srlD := of_length (n := 2) rfl rfl (by decide)
theorem srlE : Statement .srlE := of_length (n := 2) rfl rfl (by decide)
theorem srlH : Statement .srlH := of_length (n := 2) rfl rfl (by decide)
theorem srlL : Statement .srlL := of_length (n := 2) rfl rfl (by decide)
theorem srlMhl : Statement .srlMhl := of_length (n := 2) rfl rfl (by decide)
theorem srlA : Statement .srlA := of_length (n := 2) rfl rfl (by decide)

end Sys2Proof.Laws.FormBytes

namespace Sys2Proof.Laws.WindowBack

/-- The window of the row's bytes, with any bytes after them, is the row. -/
def Statement (i : Instr) : Prop :=
  i.wellFormed = true → ∀ p q : Byte,
    decodeWindow ((encode i).getD 0 0#8) ((encode i ++ [p, q]).getD 1 0#8) ((encode i ++ [p, q]).getD 2 0#8) = i

/-- A row of one byte. -/
theorem of_one {i : Instr} {b0 : Byte} (he : encode i = [b0]) (hw : ∀ p q, decodeWindow b0 p q = i) : Statement i := by
  intro _ p q
  rw [he]
  exact hw p q

/-- A row of two bytes. -/
theorem of_two {i : Instr} {b0 b1 : Byte} (he : encode i = [b0, b1]) (hw : ∀ p, decodeWindow b0 b1 p = i) :
    Statement i := by
  intro _ p _
  rw [he]
  exact hw p

/-- A row of three bytes, the last two a word. -/
theorem of_three {i : Instr} {b0 : Byte} {w : Word} (he : encode i = [b0, w.lo, w.hi])
    (hw : ∀ b1 b2, Word.ofBytes b2 b1 = w → decodeWindow b0 b1 b2 = i) : Statement i := by
  intro _ _ _
  rw [he]
  exact hw _ _ (Sys2Proof.Machine.Word.ofBytes_hi_lo w)

/-- A row of the CB-prefixed table. -/
theorem of_cb {i : Instr} {op : Byte} (he : encode i = [0xCB#8, op]) (hw : decodeCB op = i) : Statement i :=
  of_two he fun _ => hw

theorem ldBcD16 (d16 : Word) : Statement (.ldBcD16 d16) := of_three (b0 := 0x01#8) rfl fun _ _ h => congrArg Instr.ldBcD16 h
theorem ldBD8 (d8 : Byte) : Statement (.ldBD8 d8) := of_two (b0 := 0x06#8) rfl fun _ => rfl
theorem ldMa16Sp (a16 : Word) : Statement (.ldMa16Sp a16) := of_three (b0 := 0x08#8) rfl fun _ _ h => congrArg Instr.ldMa16Sp h
theorem ldCD8 (d8 : Byte) : Statement (.ldCD8 d8) := of_two (b0 := 0x0E#8) rfl fun _ => rfl
theorem stop (ignored : Byte) : Statement (.stop ignored) := of_two (b0 := 0x10#8) rfl fun _ => rfl
theorem ldDeD16 (d16 : Word) : Statement (.ldDeD16 d16) := of_three (b0 := 0x11#8) rfl fun _ _ h => congrArg Instr.ldDeD16 h
theorem ldDD8 (d8 : Byte) : Statement (.ldDD8 d8) := of_two (b0 := 0x16#8) rfl fun _ => rfl
theorem jrE8 (e8 : Byte) : Statement (.jrE8 e8) := of_two (b0 := 0x18#8) rfl fun _ => rfl
theorem ldED8 (d8 : Byte) : Statement (.ldED8 d8) := of_two (b0 := 0x1E#8) rfl fun _ => rfl
theorem jrNzE8 (e8 : Byte) : Statement (.jrNzE8 e8) := of_two (b0 := 0x20#8) rfl fun _ => rfl
theorem ldHlD16 (d16 : Word) : Statement (.ldHlD16 d16) := of_three (b0 := 0x21#8) rfl fun _ _ h => congrArg Instr.ldHlD16 h
theorem ldHD8 (d8 : Byte) : Statement (.ldHD8 d8) := of_two (b0 := 0x26#8) rfl fun _ => rfl
theorem jrZE8 (e8 : Byte) : Statement (.jrZE8 e8) := of_two (b0 := 0x28#8) rfl fun _ => rfl
theorem ldLD8 (d8 : Byte) : Statement (.ldLD8 d8) := of_two (b0 := 0x2E#8) rfl fun _ => rfl
theorem jrNcE8 (e8 : Byte) : Statement (.jrNcE8 e8) := of_two (b0 := 0x30#8) rfl fun _ => rfl
theorem ldSpD16 (d16 : Word) : Statement (.ldSpD16 d16) := of_three (b0 := 0x31#8) rfl fun _ _ h => congrArg Instr.ldSpD16 h
theorem ldMhlD8 (d8 : Byte) : Statement (.ldMhlD8 d8) := of_two (b0 := 0x36#8) rfl fun _ => rfl
theorem jrCE8 (e8 : Byte) : Statement (.jrCE8 e8) := of_two (b0 := 0x38#8) rfl fun _ => rfl
theorem ldAD8 (d8 : Byte) : Statement (.ldAD8 d8) := of_two (b0 := 0x3E#8) rfl fun _ => rfl
theorem jpNzA16 (a16 : Word) : Statement (.jpNzA16 a16) := of_three (b0 := 0xC2#8) rfl fun _ _ h => congrArg Instr.jpNzA16 h
theorem jpA16 (a16 : Word) : Statement (.jpA16 a16) := of_three (b0 := 0xC3#8) rfl fun _ _ h => congrArg Instr.jpA16 h
theorem callNzA16 (a16 : Word) : Statement (.callNzA16 a16) := of_three (b0 := 0xC4#8) rfl fun _ _ h => congrArg Instr.callNzA16 h
theorem addAD8 (d8 : Byte) : Statement (.addAD8 d8) := of_two (b0 := 0xC6#8) rfl fun _ => rfl
theorem jpZA16 (a16 : Word) : Statement (.jpZA16 a16) := of_three (b0 := 0xCA#8) rfl fun _ _ h => congrArg Instr.jpZA16 h
theorem callZA16 (a16 : Word) : Statement (.callZA16 a16) := of_three (b0 := 0xCC#8) rfl fun _ _ h => congrArg Instr.callZA16 h
theorem callA16 (a16 : Word) : Statement (.callA16 a16) := of_three (b0 := 0xCD#8) rfl fun _ _ h => congrArg Instr.callA16 h
theorem adcAD8 (d8 : Byte) : Statement (.adcAD8 d8) := of_two (b0 := 0xCE#8) rfl fun _ => rfl
theorem jpNcA16 (a16 : Word) : Statement (.jpNcA16 a16) := of_three (b0 := 0xD2#8) rfl fun _ _ h => congrArg Instr.jpNcA16 h
theorem callNcA16 (a16 : Word) : Statement (.callNcA16 a16) := of_three (b0 := 0xD4#8) rfl fun _ _ h => congrArg Instr.callNcA16 h
theorem subD8 (d8 : Byte) : Statement (.subD8 d8) := of_two (b0 := 0xD6#8) rfl fun _ => rfl
theorem jpCA16 (a16 : Word) : Statement (.jpCA16 a16) := of_three (b0 := 0xDA#8) rfl fun _ _ h => congrArg Instr.jpCA16 h
theorem callCA16 (a16 : Word) : Statement (.callCA16 a16) := of_three (b0 := 0xDC#8) rfl fun _ _ h => congrArg Instr.callCA16 h
theorem sbcAD8 (d8 : Byte) : Statement (.sbcAD8 d8) := of_two (b0 := 0xDE#8) rfl fun _ => rfl
theorem ldhMa8A (a8 : Byte) : Statement (.ldhMa8A a8) := of_two (b0 := 0xE0#8) rfl fun _ => rfl
theorem andD8 (d8 : Byte) : Statement (.andD8 d8) := of_two (b0 := 0xE6#8) rfl fun _ => rfl
theorem addSpE8 (e8 : Byte) : Statement (.addSpE8 e8) := of_two (b0 := 0xE8#8) rfl fun _ => rfl
theorem ldMa16A (a16 : Word) : Statement (.ldMa16A a16) := of_three (b0 := 0xEA#8) rfl fun _ _ h => congrArg Instr.ldMa16A h
theorem xorD8 (d8 : Byte) : Statement (.xorD8 d8) := of_two (b0 := 0xEE#8) rfl fun _ => rfl
theorem ldhAMa8 (a8 : Byte) : Statement (.ldhAMa8 a8) := of_two (b0 := 0xF0#8) rfl fun _ => rfl
theorem orD8 (d8 : Byte) : Statement (.orD8 d8) := of_two (b0 := 0xF6#8) rfl fun _ => rfl
theorem ldHlSpE8 (e8 : Byte) : Statement (.ldHlSpE8 e8) := of_two (b0 := 0xF8#8) rfl fun _ => rfl
theorem ldAMa16 (a16 : Word) : Statement (.ldAMa16 a16) := of_three (b0 := 0xFA#8) rfl fun _ _ h => congrArg Instr.ldAMa16 h
theorem cpD8 (d8 : Byte) : Statement (.cpD8 d8) := of_two (b0 := 0xFE#8) rfl fun _ => rfl
theorem bitB (b : BitVec 3) : Statement (.bitB b) :=
  of_cb rfl ((by decide +kernel : ∀ b : BitVec 3, decodeCB (Instr.form (.bitB b)).opcode = .bitB b) b)
theorem bitC (b : BitVec 3) : Statement (.bitC b) :=
  of_cb rfl ((by decide +kernel : ∀ b : BitVec 3, decodeCB (Instr.form (.bitC b)).opcode = .bitC b) b)
theorem bitD (b : BitVec 3) : Statement (.bitD b) :=
  of_cb rfl ((by decide +kernel : ∀ b : BitVec 3, decodeCB (Instr.form (.bitD b)).opcode = .bitD b) b)
theorem bitE (b : BitVec 3) : Statement (.bitE b) :=
  of_cb rfl ((by decide +kernel : ∀ b : BitVec 3, decodeCB (Instr.form (.bitE b)).opcode = .bitE b) b)
theorem bitH (b : BitVec 3) : Statement (.bitH b) :=
  of_cb rfl ((by decide +kernel : ∀ b : BitVec 3, decodeCB (Instr.form (.bitH b)).opcode = .bitH b) b)
theorem bitL (b : BitVec 3) : Statement (.bitL b) :=
  of_cb rfl ((by decide +kernel : ∀ b : BitVec 3, decodeCB (Instr.form (.bitL b)).opcode = .bitL b) b)
theorem bitMhl (b : BitVec 3) : Statement (.bitMhl b) :=
  of_cb rfl ((by decide +kernel : ∀ b : BitVec 3, decodeCB (Instr.form (.bitMhl b)).opcode = .bitMhl b) b)
theorem bitA (b : BitVec 3) : Statement (.bitA b) :=
  of_cb rfl ((by decide +kernel : ∀ b : BitVec 3, decodeCB (Instr.form (.bitA b)).opcode = .bitA b) b)
theorem resB (b : BitVec 3) : Statement (.resB b) :=
  of_cb rfl ((by decide +kernel : ∀ b : BitVec 3, decodeCB (Instr.form (.resB b)).opcode = .resB b) b)
theorem resC (b : BitVec 3) : Statement (.resC b) :=
  of_cb rfl ((by decide +kernel : ∀ b : BitVec 3, decodeCB (Instr.form (.resC b)).opcode = .resC b) b)
theorem resD (b : BitVec 3) : Statement (.resD b) :=
  of_cb rfl ((by decide +kernel : ∀ b : BitVec 3, decodeCB (Instr.form (.resD b)).opcode = .resD b) b)
theorem resE (b : BitVec 3) : Statement (.resE b) :=
  of_cb rfl ((by decide +kernel : ∀ b : BitVec 3, decodeCB (Instr.form (.resE b)).opcode = .resE b) b)
theorem resH (b : BitVec 3) : Statement (.resH b) :=
  of_cb rfl ((by decide +kernel : ∀ b : BitVec 3, decodeCB (Instr.form (.resH b)).opcode = .resH b) b)
theorem resL (b : BitVec 3) : Statement (.resL b) :=
  of_cb rfl ((by decide +kernel : ∀ b : BitVec 3, decodeCB (Instr.form (.resL b)).opcode = .resL b) b)
theorem resMhl (b : BitVec 3) : Statement (.resMhl b) :=
  of_cb rfl ((by decide +kernel : ∀ b : BitVec 3, decodeCB (Instr.form (.resMhl b)).opcode = .resMhl b) b)
theorem resA (b : BitVec 3) : Statement (.resA b) :=
  of_cb rfl ((by decide +kernel : ∀ b : BitVec 3, decodeCB (Instr.form (.resA b)).opcode = .resA b) b)
theorem setB (b : BitVec 3) : Statement (.setB b) :=
  of_cb rfl ((by decide +kernel : ∀ b : BitVec 3, decodeCB (Instr.form (.setB b)).opcode = .setB b) b)
theorem setC (b : BitVec 3) : Statement (.setC b) :=
  of_cb rfl ((by decide +kernel : ∀ b : BitVec 3, decodeCB (Instr.form (.setC b)).opcode = .setC b) b)
theorem setD (b : BitVec 3) : Statement (.setD b) :=
  of_cb rfl ((by decide +kernel : ∀ b : BitVec 3, decodeCB (Instr.form (.setD b)).opcode = .setD b) b)
theorem setE (b : BitVec 3) : Statement (.setE b) :=
  of_cb rfl ((by decide +kernel : ∀ b : BitVec 3, decodeCB (Instr.form (.setE b)).opcode = .setE b) b)
theorem setH (b : BitVec 3) : Statement (.setH b) :=
  of_cb rfl ((by decide +kernel : ∀ b : BitVec 3, decodeCB (Instr.form (.setH b)).opcode = .setH b) b)
theorem setL (b : BitVec 3) : Statement (.setL b) :=
  of_cb rfl ((by decide +kernel : ∀ b : BitVec 3, decodeCB (Instr.form (.setL b)).opcode = .setL b) b)
theorem setMhl (b : BitVec 3) : Statement (.setMhl b) :=
  of_cb rfl ((by decide +kernel : ∀ b : BitVec 3, decodeCB (Instr.form (.setMhl b)).opcode = .setMhl b) b)
theorem setA (b : BitVec 3) : Statement (.setA b) :=
  of_cb rfl ((by decide +kernel : ∀ b : BitVec 3, decodeCB (Instr.form (.setA b)).opcode = .setA b) b)
theorem nop : Statement .nop := of_one (b0 := 0x00#8) rfl fun _ _ => rfl
theorem ldMbcA : Statement .ldMbcA := of_one (b0 := 0x02#8) rfl fun _ _ => rfl
theorem incBc : Statement .incBc := of_one (b0 := 0x03#8) rfl fun _ _ => rfl
theorem incB : Statement .incB := of_one (b0 := 0x04#8) rfl fun _ _ => rfl
theorem decB : Statement .decB := of_one (b0 := 0x05#8) rfl fun _ _ => rfl
theorem rlca : Statement .rlca := of_one (b0 := 0x07#8) rfl fun _ _ => rfl
theorem addHlBc : Statement .addHlBc := of_one (b0 := 0x09#8) rfl fun _ _ => rfl
theorem ldAMbc : Statement .ldAMbc := of_one (b0 := 0x0A#8) rfl fun _ _ => rfl
theorem decBc : Statement .decBc := of_one (b0 := 0x0B#8) rfl fun _ _ => rfl
theorem incC : Statement .incC := of_one (b0 := 0x0C#8) rfl fun _ _ => rfl
theorem decC : Statement .decC := of_one (b0 := 0x0D#8) rfl fun _ _ => rfl
theorem rrca : Statement .rrca := of_one (b0 := 0x0F#8) rfl fun _ _ => rfl
theorem ldMdeA : Statement .ldMdeA := of_one (b0 := 0x12#8) rfl fun _ _ => rfl
theorem incDe : Statement .incDe := of_one (b0 := 0x13#8) rfl fun _ _ => rfl
theorem incD : Statement .incD := of_one (b0 := 0x14#8) rfl fun _ _ => rfl
theorem decD : Statement .decD := of_one (b0 := 0x15#8) rfl fun _ _ => rfl
theorem rla : Statement .rla := of_one (b0 := 0x17#8) rfl fun _ _ => rfl
theorem addHlDe : Statement .addHlDe := of_one (b0 := 0x19#8) rfl fun _ _ => rfl
theorem ldAMde : Statement .ldAMde := of_one (b0 := 0x1A#8) rfl fun _ _ => rfl
theorem decDe : Statement .decDe := of_one (b0 := 0x1B#8) rfl fun _ _ => rfl
theorem incE : Statement .incE := of_one (b0 := 0x1C#8) rfl fun _ _ => rfl
theorem decE : Statement .decE := of_one (b0 := 0x1D#8) rfl fun _ _ => rfl
theorem rra : Statement .rra := of_one (b0 := 0x1F#8) rfl fun _ _ => rfl
theorem ldMhlIncA : Statement .ldMhlIncA := of_one (b0 := 0x22#8) rfl fun _ _ => rfl
theorem incHl : Statement .incHl := of_one (b0 := 0x23#8) rfl fun _ _ => rfl
theorem incH : Statement .incH := of_one (b0 := 0x24#8) rfl fun _ _ => rfl
theorem decH : Statement .decH := of_one (b0 := 0x25#8) rfl fun _ _ => rfl
theorem daa : Statement .daa := of_one (b0 := 0x27#8) rfl fun _ _ => rfl
theorem addHlHl : Statement .addHlHl := of_one (b0 := 0x29#8) rfl fun _ _ => rfl
theorem ldAMhlInc : Statement .ldAMhlInc := of_one (b0 := 0x2A#8) rfl fun _ _ => rfl
theorem decHl : Statement .decHl := of_one (b0 := 0x2B#8) rfl fun _ _ => rfl
theorem incL : Statement .incL := of_one (b0 := 0x2C#8) rfl fun _ _ => rfl
theorem decL : Statement .decL := of_one (b0 := 0x2D#8) rfl fun _ _ => rfl
theorem cpl : Statement .cpl := of_one (b0 := 0x2F#8) rfl fun _ _ => rfl
theorem ldMhlDecA : Statement .ldMhlDecA := of_one (b0 := 0x32#8) rfl fun _ _ => rfl
theorem incSp : Statement .incSp := of_one (b0 := 0x33#8) rfl fun _ _ => rfl
theorem incMhl : Statement .incMhl := of_one (b0 := 0x34#8) rfl fun _ _ => rfl
theorem decMhl : Statement .decMhl := of_one (b0 := 0x35#8) rfl fun _ _ => rfl
theorem scf : Statement .scf := of_one (b0 := 0x37#8) rfl fun _ _ => rfl
theorem addHlSp : Statement .addHlSp := of_one (b0 := 0x39#8) rfl fun _ _ => rfl
theorem ldAMhlDec : Statement .ldAMhlDec := of_one (b0 := 0x3A#8) rfl fun _ _ => rfl
theorem decSp : Statement .decSp := of_one (b0 := 0x3B#8) rfl fun _ _ => rfl
theorem incA : Statement .incA := of_one (b0 := 0x3C#8) rfl fun _ _ => rfl
theorem decA : Statement .decA := of_one (b0 := 0x3D#8) rfl fun _ _ => rfl
theorem ccf : Statement .ccf := of_one (b0 := 0x3F#8) rfl fun _ _ => rfl
theorem ldBB : Statement .ldBB := of_one (b0 := 0x40#8) rfl fun _ _ => rfl
theorem ldBC : Statement .ldBC := of_one (b0 := 0x41#8) rfl fun _ _ => rfl
theorem ldBD : Statement .ldBD := of_one (b0 := 0x42#8) rfl fun _ _ => rfl
theorem ldBE : Statement .ldBE := of_one (b0 := 0x43#8) rfl fun _ _ => rfl
theorem ldBH : Statement .ldBH := of_one (b0 := 0x44#8) rfl fun _ _ => rfl
theorem ldBL : Statement .ldBL := of_one (b0 := 0x45#8) rfl fun _ _ => rfl
theorem ldBMhl : Statement .ldBMhl := of_one (b0 := 0x46#8) rfl fun _ _ => rfl
theorem ldBA : Statement .ldBA := of_one (b0 := 0x47#8) rfl fun _ _ => rfl
theorem ldCB : Statement .ldCB := of_one (b0 := 0x48#8) rfl fun _ _ => rfl
theorem ldCC : Statement .ldCC := of_one (b0 := 0x49#8) rfl fun _ _ => rfl
theorem ldCD : Statement .ldCD := of_one (b0 := 0x4A#8) rfl fun _ _ => rfl
theorem ldCE : Statement .ldCE := of_one (b0 := 0x4B#8) rfl fun _ _ => rfl
theorem ldCH : Statement .ldCH := of_one (b0 := 0x4C#8) rfl fun _ _ => rfl
theorem ldCL : Statement .ldCL := of_one (b0 := 0x4D#8) rfl fun _ _ => rfl
theorem ldCMhl : Statement .ldCMhl := of_one (b0 := 0x4E#8) rfl fun _ _ => rfl
theorem ldCA : Statement .ldCA := of_one (b0 := 0x4F#8) rfl fun _ _ => rfl
theorem ldDB : Statement .ldDB := of_one (b0 := 0x50#8) rfl fun _ _ => rfl
theorem ldDC : Statement .ldDC := of_one (b0 := 0x51#8) rfl fun _ _ => rfl
theorem ldDD : Statement .ldDD := of_one (b0 := 0x52#8) rfl fun _ _ => rfl
theorem ldDE : Statement .ldDE := of_one (b0 := 0x53#8) rfl fun _ _ => rfl
theorem ldDH : Statement .ldDH := of_one (b0 := 0x54#8) rfl fun _ _ => rfl
theorem ldDL : Statement .ldDL := of_one (b0 := 0x55#8) rfl fun _ _ => rfl
theorem ldDMhl : Statement .ldDMhl := of_one (b0 := 0x56#8) rfl fun _ _ => rfl
theorem ldDA : Statement .ldDA := of_one (b0 := 0x57#8) rfl fun _ _ => rfl
theorem ldEB : Statement .ldEB := of_one (b0 := 0x58#8) rfl fun _ _ => rfl
theorem ldEC : Statement .ldEC := of_one (b0 := 0x59#8) rfl fun _ _ => rfl
theorem ldED : Statement .ldED := of_one (b0 := 0x5A#8) rfl fun _ _ => rfl
theorem ldEE : Statement .ldEE := of_one (b0 := 0x5B#8) rfl fun _ _ => rfl
theorem ldEH : Statement .ldEH := of_one (b0 := 0x5C#8) rfl fun _ _ => rfl
theorem ldEL : Statement .ldEL := of_one (b0 := 0x5D#8) rfl fun _ _ => rfl
theorem ldEMhl : Statement .ldEMhl := of_one (b0 := 0x5E#8) rfl fun _ _ => rfl
theorem ldEA : Statement .ldEA := of_one (b0 := 0x5F#8) rfl fun _ _ => rfl
theorem ldHB : Statement .ldHB := of_one (b0 := 0x60#8) rfl fun _ _ => rfl
theorem ldHC : Statement .ldHC := of_one (b0 := 0x61#8) rfl fun _ _ => rfl
theorem ldHD : Statement .ldHD := of_one (b0 := 0x62#8) rfl fun _ _ => rfl
theorem ldHE : Statement .ldHE := of_one (b0 := 0x63#8) rfl fun _ _ => rfl
theorem ldHH : Statement .ldHH := of_one (b0 := 0x64#8) rfl fun _ _ => rfl
theorem ldHL : Statement .ldHL := of_one (b0 := 0x65#8) rfl fun _ _ => rfl
theorem ldHMhl : Statement .ldHMhl := of_one (b0 := 0x66#8) rfl fun _ _ => rfl
theorem ldHA : Statement .ldHA := of_one (b0 := 0x67#8) rfl fun _ _ => rfl
theorem ldLB : Statement .ldLB := of_one (b0 := 0x68#8) rfl fun _ _ => rfl
theorem ldLC : Statement .ldLC := of_one (b0 := 0x69#8) rfl fun _ _ => rfl
theorem ldLD : Statement .ldLD := of_one (b0 := 0x6A#8) rfl fun _ _ => rfl
theorem ldLE : Statement .ldLE := of_one (b0 := 0x6B#8) rfl fun _ _ => rfl
theorem ldLH : Statement .ldLH := of_one (b0 := 0x6C#8) rfl fun _ _ => rfl
theorem ldLL : Statement .ldLL := of_one (b0 := 0x6D#8) rfl fun _ _ => rfl
theorem ldLMhl : Statement .ldLMhl := of_one (b0 := 0x6E#8) rfl fun _ _ => rfl
theorem ldLA : Statement .ldLA := of_one (b0 := 0x6F#8) rfl fun _ _ => rfl
theorem ldMhlB : Statement .ldMhlB := of_one (b0 := 0x70#8) rfl fun _ _ => rfl
theorem ldMhlC : Statement .ldMhlC := of_one (b0 := 0x71#8) rfl fun _ _ => rfl
theorem ldMhlD : Statement .ldMhlD := of_one (b0 := 0x72#8) rfl fun _ _ => rfl
theorem ldMhlE : Statement .ldMhlE := of_one (b0 := 0x73#8) rfl fun _ _ => rfl
theorem ldMhlH : Statement .ldMhlH := of_one (b0 := 0x74#8) rfl fun _ _ => rfl
theorem ldMhlL : Statement .ldMhlL := of_one (b0 := 0x75#8) rfl fun _ _ => rfl
theorem halt : Statement .halt := of_one (b0 := 0x76#8) rfl fun _ _ => rfl
theorem ldMhlA : Statement .ldMhlA := of_one (b0 := 0x77#8) rfl fun _ _ => rfl
theorem ldAB : Statement .ldAB := of_one (b0 := 0x78#8) rfl fun _ _ => rfl
theorem ldAC : Statement .ldAC := of_one (b0 := 0x79#8) rfl fun _ _ => rfl
theorem ldAD : Statement .ldAD := of_one (b0 := 0x7A#8) rfl fun _ _ => rfl
theorem ldAE : Statement .ldAE := of_one (b0 := 0x7B#8) rfl fun _ _ => rfl
theorem ldAH : Statement .ldAH := of_one (b0 := 0x7C#8) rfl fun _ _ => rfl
theorem ldAL : Statement .ldAL := of_one (b0 := 0x7D#8) rfl fun _ _ => rfl
theorem ldAMhl : Statement .ldAMhl := of_one (b0 := 0x7E#8) rfl fun _ _ => rfl
theorem ldAA : Statement .ldAA := of_one (b0 := 0x7F#8) rfl fun _ _ => rfl
theorem addAB : Statement .addAB := of_one (b0 := 0x80#8) rfl fun _ _ => rfl
theorem addAC : Statement .addAC := of_one (b0 := 0x81#8) rfl fun _ _ => rfl
theorem addAD : Statement .addAD := of_one (b0 := 0x82#8) rfl fun _ _ => rfl
theorem addAE : Statement .addAE := of_one (b0 := 0x83#8) rfl fun _ _ => rfl
theorem addAH : Statement .addAH := of_one (b0 := 0x84#8) rfl fun _ _ => rfl
theorem addAL : Statement .addAL := of_one (b0 := 0x85#8) rfl fun _ _ => rfl
theorem addAMhl : Statement .addAMhl := of_one (b0 := 0x86#8) rfl fun _ _ => rfl
theorem addAA : Statement .addAA := of_one (b0 := 0x87#8) rfl fun _ _ => rfl
theorem adcAB : Statement .adcAB := of_one (b0 := 0x88#8) rfl fun _ _ => rfl
theorem adcAC : Statement .adcAC := of_one (b0 := 0x89#8) rfl fun _ _ => rfl
theorem adcAD : Statement .adcAD := of_one (b0 := 0x8A#8) rfl fun _ _ => rfl
theorem adcAE : Statement .adcAE := of_one (b0 := 0x8B#8) rfl fun _ _ => rfl
theorem adcAH : Statement .adcAH := of_one (b0 := 0x8C#8) rfl fun _ _ => rfl
theorem adcAL : Statement .adcAL := of_one (b0 := 0x8D#8) rfl fun _ _ => rfl
theorem adcAMhl : Statement .adcAMhl := of_one (b0 := 0x8E#8) rfl fun _ _ => rfl
theorem adcAA : Statement .adcAA := of_one (b0 := 0x8F#8) rfl fun _ _ => rfl
theorem subB : Statement .subB := of_one (b0 := 0x90#8) rfl fun _ _ => rfl
theorem subC : Statement .subC := of_one (b0 := 0x91#8) rfl fun _ _ => rfl
theorem subD : Statement .subD := of_one (b0 := 0x92#8) rfl fun _ _ => rfl
theorem subE : Statement .subE := of_one (b0 := 0x93#8) rfl fun _ _ => rfl
theorem subH : Statement .subH := of_one (b0 := 0x94#8) rfl fun _ _ => rfl
theorem subL : Statement .subL := of_one (b0 := 0x95#8) rfl fun _ _ => rfl
theorem subMhl : Statement .subMhl := of_one (b0 := 0x96#8) rfl fun _ _ => rfl
theorem subA : Statement .subA := of_one (b0 := 0x97#8) rfl fun _ _ => rfl
theorem sbcAB : Statement .sbcAB := of_one (b0 := 0x98#8) rfl fun _ _ => rfl
theorem sbcAC : Statement .sbcAC := of_one (b0 := 0x99#8) rfl fun _ _ => rfl
theorem sbcAD : Statement .sbcAD := of_one (b0 := 0x9A#8) rfl fun _ _ => rfl
theorem sbcAE : Statement .sbcAE := of_one (b0 := 0x9B#8) rfl fun _ _ => rfl
theorem sbcAH : Statement .sbcAH := of_one (b0 := 0x9C#8) rfl fun _ _ => rfl
theorem sbcAL : Statement .sbcAL := of_one (b0 := 0x9D#8) rfl fun _ _ => rfl
theorem sbcAMhl : Statement .sbcAMhl := of_one (b0 := 0x9E#8) rfl fun _ _ => rfl
theorem sbcAA : Statement .sbcAA := of_one (b0 := 0x9F#8) rfl fun _ _ => rfl
theorem andB : Statement .andB := of_one (b0 := 0xA0#8) rfl fun _ _ => rfl
theorem andC : Statement .andC := of_one (b0 := 0xA1#8) rfl fun _ _ => rfl
theorem andD : Statement .andD := of_one (b0 := 0xA2#8) rfl fun _ _ => rfl
theorem andE : Statement .andE := of_one (b0 := 0xA3#8) rfl fun _ _ => rfl
theorem andH : Statement .andH := of_one (b0 := 0xA4#8) rfl fun _ _ => rfl
theorem andL : Statement .andL := of_one (b0 := 0xA5#8) rfl fun _ _ => rfl
theorem andMhl : Statement .andMhl := of_one (b0 := 0xA6#8) rfl fun _ _ => rfl
theorem andA : Statement .andA := of_one (b0 := 0xA7#8) rfl fun _ _ => rfl
theorem xorB : Statement .xorB := of_one (b0 := 0xA8#8) rfl fun _ _ => rfl
theorem xorC : Statement .xorC := of_one (b0 := 0xA9#8) rfl fun _ _ => rfl
theorem xorD : Statement .xorD := of_one (b0 := 0xAA#8) rfl fun _ _ => rfl
theorem xorE : Statement .xorE := of_one (b0 := 0xAB#8) rfl fun _ _ => rfl
theorem xorH : Statement .xorH := of_one (b0 := 0xAC#8) rfl fun _ _ => rfl
theorem xorL : Statement .xorL := of_one (b0 := 0xAD#8) rfl fun _ _ => rfl
theorem xorMhl : Statement .xorMhl := of_one (b0 := 0xAE#8) rfl fun _ _ => rfl
theorem xorA : Statement .xorA := of_one (b0 := 0xAF#8) rfl fun _ _ => rfl
theorem orB : Statement .orB := of_one (b0 := 0xB0#8) rfl fun _ _ => rfl
theorem orC : Statement .orC := of_one (b0 := 0xB1#8) rfl fun _ _ => rfl
theorem orD : Statement .orD := of_one (b0 := 0xB2#8) rfl fun _ _ => rfl
theorem orE : Statement .orE := of_one (b0 := 0xB3#8) rfl fun _ _ => rfl
theorem orH : Statement .orH := of_one (b0 := 0xB4#8) rfl fun _ _ => rfl
theorem orL : Statement .orL := of_one (b0 := 0xB5#8) rfl fun _ _ => rfl
theorem orMhl : Statement .orMhl := of_one (b0 := 0xB6#8) rfl fun _ _ => rfl
theorem orA : Statement .orA := of_one (b0 := 0xB7#8) rfl fun _ _ => rfl
theorem cpB : Statement .cpB := of_one (b0 := 0xB8#8) rfl fun _ _ => rfl
theorem cpC : Statement .cpC := of_one (b0 := 0xB9#8) rfl fun _ _ => rfl
theorem cpD : Statement .cpD := of_one (b0 := 0xBA#8) rfl fun _ _ => rfl
theorem cpE : Statement .cpE := of_one (b0 := 0xBB#8) rfl fun _ _ => rfl
theorem cpH : Statement .cpH := of_one (b0 := 0xBC#8) rfl fun _ _ => rfl
theorem cpL : Statement .cpL := of_one (b0 := 0xBD#8) rfl fun _ _ => rfl
theorem cpMhl : Statement .cpMhl := of_one (b0 := 0xBE#8) rfl fun _ _ => rfl
theorem cpA : Statement .cpA := of_one (b0 := 0xBF#8) rfl fun _ _ => rfl
theorem retNz : Statement .retNz := of_one (b0 := 0xC0#8) rfl fun _ _ => rfl
theorem popBc : Statement .popBc := of_one (b0 := 0xC1#8) rfl fun _ _ => rfl
theorem pushBc : Statement .pushBc := of_one (b0 := 0xC5#8) rfl fun _ _ => rfl
theorem rst00h : Statement .rst00h := of_one (b0 := 0xC7#8) rfl fun _ _ => rfl
theorem retZ : Statement .retZ := of_one (b0 := 0xC8#8) rfl fun _ _ => rfl
theorem ret : Statement .ret := of_one (b0 := 0xC9#8) rfl fun _ _ => rfl
theorem prefixCb : Statement .prefixCb := fun h => absurd h (by decide)
theorem rst08h : Statement .rst08h := of_one (b0 := 0xCF#8) rfl fun _ _ => rfl
theorem retNc : Statement .retNc := of_one (b0 := 0xD0#8) rfl fun _ _ => rfl
theorem popDe : Statement .popDe := of_one (b0 := 0xD1#8) rfl fun _ _ => rfl
theorem invalidD3 : Statement .invalidD3 := fun h => absurd h (by decide)
theorem pushDe : Statement .pushDe := of_one (b0 := 0xD5#8) rfl fun _ _ => rfl
theorem rst10h : Statement .rst10h := of_one (b0 := 0xD7#8) rfl fun _ _ => rfl
theorem retC : Statement .retC := of_one (b0 := 0xD8#8) rfl fun _ _ => rfl
theorem reti : Statement .reti := of_one (b0 := 0xD9#8) rfl fun _ _ => rfl
theorem invalidDB : Statement .invalidDB := fun h => absurd h (by decide)
theorem invalidDD : Statement .invalidDD := fun h => absurd h (by decide)
theorem rst18h : Statement .rst18h := of_one (b0 := 0xDF#8) rfl fun _ _ => rfl
theorem popHl : Statement .popHl := of_one (b0 := 0xE1#8) rfl fun _ _ => rfl
theorem ldMcA : Statement .ldMcA := of_one (b0 := 0xE2#8) rfl fun _ _ => rfl
theorem invalidE3 : Statement .invalidE3 := fun h => absurd h (by decide)
theorem invalidE4 : Statement .invalidE4 := fun h => absurd h (by decide)
theorem pushHl : Statement .pushHl := of_one (b0 := 0xE5#8) rfl fun _ _ => rfl
theorem rst20h : Statement .rst20h := of_one (b0 := 0xE7#8) rfl fun _ _ => rfl
theorem jpHl : Statement .jpHl := of_one (b0 := 0xE9#8) rfl fun _ _ => rfl
theorem invalidEB : Statement .invalidEB := fun h => absurd h (by decide)
theorem invalidEC : Statement .invalidEC := fun h => absurd h (by decide)
theorem invalidED : Statement .invalidED := fun h => absurd h (by decide)
theorem rst28h : Statement .rst28h := of_one (b0 := 0xEF#8) rfl fun _ _ => rfl
theorem popAf : Statement .popAf := of_one (b0 := 0xF1#8) rfl fun _ _ => rfl
theorem ldAMc : Statement .ldAMc := of_one (b0 := 0xF2#8) rfl fun _ _ => rfl
theorem di : Statement .di := of_one (b0 := 0xF3#8) rfl fun _ _ => rfl
theorem invalidF4 : Statement .invalidF4 := fun h => absurd h (by decide)
theorem pushAf : Statement .pushAf := of_one (b0 := 0xF5#8) rfl fun _ _ => rfl
theorem rst30h : Statement .rst30h := of_one (b0 := 0xF7#8) rfl fun _ _ => rfl
theorem ldSpHl : Statement .ldSpHl := of_one (b0 := 0xF9#8) rfl fun _ _ => rfl
theorem ei : Statement .ei := of_one (b0 := 0xFB#8) rfl fun _ _ => rfl
theorem invalidFC : Statement .invalidFC := fun h => absurd h (by decide)
theorem invalidFD : Statement .invalidFD := fun h => absurd h (by decide)
theorem rst38h : Statement .rst38h := of_one (b0 := 0xFF#8) rfl fun _ _ => rfl
theorem rlcB : Statement .rlcB := of_cb (op := 0x00#8) rfl rfl
theorem rlcC : Statement .rlcC := of_cb (op := 0x01#8) rfl rfl
theorem rlcD : Statement .rlcD := of_cb (op := 0x02#8) rfl rfl
theorem rlcE : Statement .rlcE := of_cb (op := 0x03#8) rfl rfl
theorem rlcH : Statement .rlcH := of_cb (op := 0x04#8) rfl rfl
theorem rlcL : Statement .rlcL := of_cb (op := 0x05#8) rfl rfl
theorem rlcMhl : Statement .rlcMhl := of_cb (op := 0x06#8) rfl rfl
theorem rlcA : Statement .rlcA := of_cb (op := 0x07#8) rfl rfl
theorem rrcB : Statement .rrcB := of_cb (op := 0x08#8) rfl rfl
theorem rrcC : Statement .rrcC := of_cb (op := 0x09#8) rfl rfl
theorem rrcD : Statement .rrcD := of_cb (op := 0x0A#8) rfl rfl
theorem rrcE : Statement .rrcE := of_cb (op := 0x0B#8) rfl rfl
theorem rrcH : Statement .rrcH := of_cb (op := 0x0C#8) rfl rfl
theorem rrcL : Statement .rrcL := of_cb (op := 0x0D#8) rfl rfl
theorem rrcMhl : Statement .rrcMhl := of_cb (op := 0x0E#8) rfl rfl
theorem rrcA : Statement .rrcA := of_cb (op := 0x0F#8) rfl rfl
theorem rlB : Statement .rlB := of_cb (op := 0x10#8) rfl rfl
theorem rlC : Statement .rlC := of_cb (op := 0x11#8) rfl rfl
theorem rlD : Statement .rlD := of_cb (op := 0x12#8) rfl rfl
theorem rlE : Statement .rlE := of_cb (op := 0x13#8) rfl rfl
theorem rlH : Statement .rlH := of_cb (op := 0x14#8) rfl rfl
theorem rlL : Statement .rlL := of_cb (op := 0x15#8) rfl rfl
theorem rlMhl : Statement .rlMhl := of_cb (op := 0x16#8) rfl rfl
theorem rlA : Statement .rlA := of_cb (op := 0x17#8) rfl rfl
theorem rrB : Statement .rrB := of_cb (op := 0x18#8) rfl rfl
theorem rrC : Statement .rrC := of_cb (op := 0x19#8) rfl rfl
theorem rrD : Statement .rrD := of_cb (op := 0x1A#8) rfl rfl
theorem rrE : Statement .rrE := of_cb (op := 0x1B#8) rfl rfl
theorem rrH : Statement .rrH := of_cb (op := 0x1C#8) rfl rfl
theorem rrL : Statement .rrL := of_cb (op := 0x1D#8) rfl rfl
theorem rrMhl : Statement .rrMhl := of_cb (op := 0x1E#8) rfl rfl
theorem rrA : Statement .rrA := of_cb (op := 0x1F#8) rfl rfl
theorem slaB : Statement .slaB := of_cb (op := 0x20#8) rfl rfl
theorem slaC : Statement .slaC := of_cb (op := 0x21#8) rfl rfl
theorem slaD : Statement .slaD := of_cb (op := 0x22#8) rfl rfl
theorem slaE : Statement .slaE := of_cb (op := 0x23#8) rfl rfl
theorem slaH : Statement .slaH := of_cb (op := 0x24#8) rfl rfl
theorem slaL : Statement .slaL := of_cb (op := 0x25#8) rfl rfl
theorem slaMhl : Statement .slaMhl := of_cb (op := 0x26#8) rfl rfl
theorem slaA : Statement .slaA := of_cb (op := 0x27#8) rfl rfl
theorem sraB : Statement .sraB := of_cb (op := 0x28#8) rfl rfl
theorem sraC : Statement .sraC := of_cb (op := 0x29#8) rfl rfl
theorem sraD : Statement .sraD := of_cb (op := 0x2A#8) rfl rfl
theorem sraE : Statement .sraE := of_cb (op := 0x2B#8) rfl rfl
theorem sraH : Statement .sraH := of_cb (op := 0x2C#8) rfl rfl
theorem sraL : Statement .sraL := of_cb (op := 0x2D#8) rfl rfl
theorem sraMhl : Statement .sraMhl := of_cb (op := 0x2E#8) rfl rfl
theorem sraA : Statement .sraA := of_cb (op := 0x2F#8) rfl rfl
theorem swapB : Statement .swapB := of_cb (op := 0x30#8) rfl rfl
theorem swapC : Statement .swapC := of_cb (op := 0x31#8) rfl rfl
theorem swapD : Statement .swapD := of_cb (op := 0x32#8) rfl rfl
theorem swapE : Statement .swapE := of_cb (op := 0x33#8) rfl rfl
theorem swapH : Statement .swapH := of_cb (op := 0x34#8) rfl rfl
theorem swapL : Statement .swapL := of_cb (op := 0x35#8) rfl rfl
theorem swapMhl : Statement .swapMhl := of_cb (op := 0x36#8) rfl rfl
theorem swapA : Statement .swapA := of_cb (op := 0x37#8) rfl rfl
theorem srlB : Statement .srlB := of_cb (op := 0x38#8) rfl rfl
theorem srlC : Statement .srlC := of_cb (op := 0x39#8) rfl rfl
theorem srlD : Statement .srlD := of_cb (op := 0x3A#8) rfl rfl
theorem srlE : Statement .srlE := of_cb (op := 0x3B#8) rfl rfl
theorem srlH : Statement .srlH := of_cb (op := 0x3C#8) rfl rfl
theorem srlL : Statement .srlL := of_cb (op := 0x3D#8) rfl rfl
theorem srlMhl : Statement .srlMhl := of_cb (op := 0x3E#8) rfl rfl
theorem srlA : Statement .srlA := of_cb (op := 0x3F#8) rfl rfl

end Sys2Proof.Laws.WindowBack
end

