-- ==== Sys2Proof/Laws/Step.lean ====
section
/-! SUPPORT. What a step can be, said once: a stopped or halted no-op, a dispatch, an instruction that completed, or
the fault of an invalid opcode; with the fields of the phases of a step, and what a load of bus bytes answers. -/

namespace Sys2Proof.Machine

/-! ### The start of a step -/

@[simp] theorem State.beginStep_cpu (s : State) : s.beginStep.cpu = s.cpu := rfl
@[simp] theorem State.beginStep_params (s : State) : s.beginStep.params = s.params := rfl
@[simp] theorem State.beginStep_bus (s : State) : s.beginStep.bus = s.bus.raise s.nextInputs.irq := rfl
@[simp] theorem State.beginStep_before (s : State) : s.beginStep.cur.before = s.cpu := rfl
@[simp] theorem State.beginStep_fetchAddr (s : State) : s.beginStep.cur.fetchAddr = s.cpu.pc := rfl
@[simp] theorem State.beginStep_stopWake (s : State) : s.beginStep.cur.stopWake = s.nextInputs.stopWake := rfl
@[simp] theorem State.beginStep_writes (s : State) : s.beginStep.cur.writes = [] := rfl
@[simp] theorem State.beginStep_extra (s : State) : s.beginStep.cur.extra = 0 := rfl
@[simp] theorem State.beginStep_irqAck (s : State) : s.beginStep.cur.irqAck = 0#5 := rfl
@[simp] theorem State.beginStep_taken (s : State) : s.beginStep.cur.taken = true := rfl
@[simp] theorem State.beginStep_draws (s : State) : s.beginStep.draws = s.draws + 1 := rfl
@[simp] theorem State.beginStep_stepped (s : State) : s.beginStep.stepped = true := rfl

theorem step_of_fault {s : State} {r : FaultRecord} (h : s.cpu.fault = some r) :
    step s = .fault (.unknownOpcode r s) := by
  simp [step, h]

theorem step_of_running {s : State} (h : s.cpu.fault = none) : step s = s.beginStep.fromStoppedCheck := by
  simp [step, h]

/-! ### The end of a step -/

@[simp] theorem State.finish_cpu (s : State) (k : StepKind) (n : Nat) :
    (s.finish k n).cpu = { s.cpu with cycles := s.cpu.cycles + (n + s.cur.extra) } := rfl
@[simp] theorem State.finish_bus (s : State) (k : StepKind) (n : Nat) :
    (s.finish k n).bus = s.bus.acknowledge s.cur.irqAck := rfl
@[simp] theorem State.finish_params (s : State) (k : StepKind) (n : Nat) : (s.finish k n).params = s.params := rfl
@[simp] theorem State.finish_inputs (s : State) (k : StepKind) (n : Nat) : (s.finish k n).inputs = s.inputs := rfl
@[simp] theorem State.finish_draws (s : State) (k : StepKind) (n : Nat) : (s.finish k n).draws = s.draws := rfl
@[simp] theorem State.finish_stepped (s : State) (k : StepKind) (n : Nat) : (s.finish k n).stepped = s.stepped := rfl
@[simp] theorem State.finish_cur (s : State) (k : StepKind) (n : Nat) :
    (s.finish k n).cur = StepLatch.rest (s.finish k n).cpu := rfl
@[simp] theorem State.finish_snapshot (s : State) (k : StepKind) (n : Nat) :
    (s.finish k n).snapshot =
      some ⟨s.cur.before, (s.finish k n).cpu, k, s.cur.writes, n + s.cur.extra, s.cur.irqAck⟩ := rfl

/-- An acknowledge of no source changes nothing. -/
@[simp] theorem Bus.acknowledge_none (b : Bus) : b.acknowledge 0#5 = b := by
  have h : b.ifReg &&& ~~~0#5 = b.ifReg := BitVec.and_allOnes
  rw [Bus.acknowledge, h]
  split <;> rfl

/-! ### Waking -/

@[simp] theorem State.leaveHalt_cpu (s : State) : s.leaveHalt.cpu = { s.cpu with halted := false } := by
  unfold State.leaveHalt
  split
  · rfl
  · rename_i h
    obtain ⟨c, _⟩ := s
    cases c
    simp_all

@[simp] theorem State.leaveHalt_bus (s : State) : s.leaveHalt.bus = s.bus := by
  unfold State.leaveHalt
  split <;> rfl
@[simp] theorem State.leaveHalt_params (s : State) : s.leaveHalt.params = s.params := by
  unfold State.leaveHalt
  split <;> rfl
@[simp] theorem State.leaveHalt_inputs (s : State) : s.leaveHalt.inputs = s.inputs := by
  unfold State.leaveHalt
  split <;> rfl
@[simp] theorem State.leaveHalt_draws (s : State) : s.leaveHalt.draws = s.draws := by
  unfold State.leaveHalt
  split <;> rfl
@[simp] theorem State.leaveHalt_stepped (s : State) : s.leaveHalt.stepped = s.stepped := by
  unfold State.leaveHalt
  split <;> rfl
@[simp] theorem State.leaveHalt_snapshot (s : State) : s.leaveHalt.snapshot = s.snapshot := by
  unfold State.leaveHalt
  split <;> rfl
@[simp] theorem State.leaveHalt_cur (s : State) :
    s.leaveHalt.cur = { s.cur with extra := if s.cpu.halted then 4 else s.cur.extra } := by
  unfold State.leaveHalt
  split <;> simp_all

@[simp] theorem State.leaveStop_cpu (s : State) : s.leaveStop.cpu = { s.cpu with stopped := false } := rfl
@[simp] theorem State.leaveStop_bus (s : State) : s.leaveStop.bus = s.bus := rfl
@[simp] theorem State.leaveStop_params (s : State) : s.leaveStop.params = s.params := rfl
@[simp] theorem State.leaveStop_inputs (s : State) : s.leaveStop.inputs = s.inputs := rfl
@[simp] theorem State.leaveStop_draws (s : State) : s.leaveStop.draws = s.draws := rfl
@[simp] theorem State.leaveStop_stepped (s : State) : s.leaveStop.stepped = s.stepped := rfl
@[simp] theorem State.leaveStop_snapshot (s : State) : s.leaveStop.snapshot = s.snapshot := rfl
@[simp] theorem State.leaveStop_cur (s : State) : s.leaveStop.cur = s.cur := rfl

/-- The state in which a step that is no no-op dispatches or fetches. -/
def State.awake (s : State) : State := s.beginStep.leaveStop.leaveHalt

@[simp] theorem State.awake_cpu (s : State) :
    s.awake.cpu = { s.cpu with stopped := false, halted := false } := by simp [State.awake]
@[simp] theorem State.awake_bus (s : State) : s.awake.bus = s.bus.raise s.nextInputs.irq := by simp [State.awake]
@[simp] theorem State.awake_params (s : State) : s.awake.params = s.params := by simp [State.awake]
@[simp] theorem State.awake_inputs (s : State) : s.awake.inputs = s.inputs.tail := by
  simp [State.awake, State.beginStep]
@[simp] theorem State.awake_draws (s : State) : s.awake.draws = s.draws + 1 := by simp [State.awake]
@[simp] theorem State.awake_stepped (s : State) : s.awake.stepped = true := by simp [State.awake]
@[simp] theorem State.awake_cur (s : State) :
    s.awake.cur = { s.beginStep.cur with extra := if s.cpu.halted then 4 else 0 } := by
  rw [State.awake, State.leaveHalt_cur]
  rfl

theorem State.awake_pending (s : State) : s.awake.pending = s.beginStep.pending := by
  simp [State.pending]

theorem State.awake_lowestPending (s : State) : s.awake.lowestPending = s.beginStep.lowestPending := by
  simp [State.lowestPending, State.pendingBit]

/-! ### Fetching -/

theorem State.promote_eq (s : State) :
    s.promote = { s with cpu := { s.cpu with ime := s.cpu.ime || s.cpu.imeScheduled, imeScheduled := false } } := by
  obtain ⟨c, _⟩ := s
  cases c
  rename_i b _ _ _ _
  cases b <;> simp [State.promote, State.setIme, State.setImeScheduled]

theorem State.setOperandValue_eq (s : State) (imm : Option Word) :
    s.setOperandValue imm = { s with cpu := { s.cpu with operandValue := imm.getD s.cpu.operandValue } } := by
  cases imm <;> rfl

/-- What the instruction finds (spec/40_engine.md R231). -/
theorem State.ready_eq (s : State) (i : Instr) :
    s.ready i =
      { s with
        cpu :=
          { s.cpu with
            pc := s.afterOpcode + BitVec.ofNat 16 (i.length - 1)
            haltBugArmed := false
            ir := s.fetchedOpcode
            prefixed := decide (s.window.1 = 0xCB#8)
            ime := s.cpu.ime || s.cpu.imeScheduled
            imeScheduled := false
            operandValue := i.form.operandValue.getD s.cpu.operandValue }
        cur := { s.cur with fetchAddr := s.cpu.pc } } := by
  rw [State.ready, State.setOperandValue_eq, State.promote_eq]
  rfl

/-- A decoded window is never the prefix row. -/
theorem decodeWindow_isPrefix (b0 b1 b2 : Byte) : (decodeWindow b0 b1 b2).isPrefix = false := by
  unfold decodeWindow
  split
  · have h := (encode_decodeCB b1).2.2
    simp only [Instr.wellFormed, Bool.and_eq_true, Bool.not_eq_true'] at h
    exact h.1
  · rename_i h
    rw [decodeMain_isPrefix]
    simpa using h

/-- The invalid windows begin with the eleven bytes of spec/30_encoding.md R196. -/
theorem decodeWindow_isInvalid (b0 b1 b2 : Byte) :
    (decodeWindow b0 b1 b2).isInvalid =
      decide (b0 ∈ [0xD3#8, 0xDB#8, 0xDD#8, 0xE3#8, 0xE4#8, 0xEB#8, 0xEC#8, 0xED#8, 0xF4#8, 0xFC#8, 0xFD#8]) := by
  unfold decodeWindow
  split
  · rename_i hb
    have h := (encode_decodeCB b1).2.2
    simp only [Instr.wellFormed, Bool.and_eq_true, Bool.not_eq_true'] at h
    rw [h.2, hb]
    rfl
  · exact decodeMain_isInvalid _ _ _

/-- An invalid window is the invalid row of its first byte, which has one byte. -/
theorem decodeWindow_invalid {b0 b1 b2 : Byte} (h : (decodeWindow b0 b1 b2).isInvalid = true) :
    (decodeWindow b0 b1 b2).form = .invalid b0 := by
  obtain ⟨op, hop⟩ := (isInvalid_iff _).1 h
  have hcb : b0 ≠ 0xCB#8 := by
    rintro rfl
    rw [decodeWindow_isInvalid] at h
    revert h
    decide
  rw [hop]
  unfold decodeWindow at hop
  rw [if_neg hcb] at hop
  have := (decodeMain_opcode b0 b1 (Word.ofBytes b2 b1)).2
  rw [hop] at this
  simpa [Form.opcode] using this

/-! ### What a step can be -/

/-- A step from a state without a fault is one of four things: a stopped no-op, a halted no-op, a dispatch, or the
instruction at PC. -/
theorem step_cases {s : State} (h : s.cpu.fault = none) :
    (s.beginStep.staysStopped = true ∧ step s = .next (s.beginStep.idle .stopped)) ∨
    (s.beginStep.staysStopped = false ∧ s.beginStep.leaveStop.staysHalted = true ∧
      step s = .next (s.beginStep.leaveStop.idle .halted)) ∨
    (s.beginStep.staysStopped = false ∧ s.beginStep.leaveStop.staysHalted = false ∧
      ∃ n, s.awake.dispatchTarget = some n ∧ step s = .next (s.awake.dispatchStep n)) ∨
    (s.beginStep.staysStopped = false ∧ s.beginStep.leaveStop.staysHalted = false ∧
      s.awake.dispatchTarget = none ∧ step s = s.awake.executeStep) := by
  rw [step_of_running h]
  unfold State.fromStoppedCheck
  cases h1 : s.beginStep.staysStopped
  · cases h2 : s.beginStep.leaveStop.staysHalted
    · cases h3 : s.awake.dispatchTarget <;>
        simp_all [State.fromHaltedCheck, State.dispatchOrExecute, State.awake]
    · simp [State.fromHaltedCheck, h2]
  · simp

/-- The instruction at PC faults if its row is invalid, and completes else. -/
theorem executeStep_cases (u : State) :
    (u.fetchedInstr.isInvalid = true ∧
      u.executeStep = (u.ready u.fetchedInstr).raiseUnknownOpcode u.window.1) ∨
    (u.fetchedInstr.isInvalid = false ∧ ∃ t, exec u.fetchedInstr (u.ready u.fetchedInstr) = .next t ∧
      u.executeStep =
        .next (t.finish (.instruction u.fetchedInstr) (selectCycles (Form.cycles u.fetchedInstr.form) t.cur.taken)) ∧
      Kept (u.ready u.fetchedInstr) t) := by
  cases hi : u.fetchedInstr.isInvalid
  · right
    obtain ⟨t, ht⟩ := exec_next hi (u.ready u.fetchedInstr)
    exact ⟨rfl, t, ht, by rw [State.executeStep, ht]; rfl, kept_exec (decodeWindow_isPrefix _ _ _) ht⟩
  · left
    refine ⟨rfl, ?_⟩
    have hf : u.fetchedInstr.form = .invalid u.window.1 := decodeWindow_invalid hi
    rw [State.executeStep, exec_eq_familyMeaning, hf]
    rfl

/-- The CPU state after a dispatch step. -/
theorem State.dispatchStep_cpu (s : State) (n : Fin 5) :
    (s.dispatchStep n).cpu =
      { s.cpu with
        pc := vector n
        sp := s.cpu.sp - 2#16
        ie := s.ieAfterWord (s.cpu.sp - 2#16) s.cpu.pc
        ime := false
        imeScheduled := false
        cycles := s.cpu.cycles + (20 + s.cur.extra) } := by
  simp only [State.dispatchStep, State.takeInterrupt, State.finish_cpu]
  simp
  constructor
  · rfl
  · simp [State.push16, State.memWrite, State.storeBytes, wordBytes]

/-- Where a next state comes from. -/
theorem step_next_cases {s t : State} (hf : s.cpu.fault = none) (h : step s = .next t) :
    (s.beginStep.staysStopped = true ∧ t = s.beginStep.idle .stopped) ∨
    (s.beginStep.staysStopped = false ∧ s.beginStep.leaveStop.staysHalted = true ∧
      t = s.beginStep.leaveStop.idle .halted) ∨
    (s.beginStep.staysStopped = false ∧ s.beginStep.leaveStop.staysHalted = false ∧
      ∃ n, s.awake.dispatchTarget = some n ∧ t = s.awake.dispatchStep n) ∨
    (s.beginStep.staysStopped = false ∧ s.beginStep.leaveStop.staysHalted = false ∧
      s.awake.dispatchTarget = none ∧ ∃ i r, i = s.awake.fetchedInstr ∧ i.wellFormed = true ∧
        exec i (s.awake.ready i) = .next r ∧ Kept (s.awake.ready i) r ∧
        t = r.finish (.instruction i) (selectCycles (Form.cycles i.form) r.cur.taken)) := by
  obtain ⟨h1, h'⟩ | ⟨h1, h2, h'⟩ | ⟨h1, h2, n, h3, h'⟩ | ⟨h1, h2, h3, h'⟩ := step_cases hf <;> rw [h'] at h
  · cases h
    exact .inl ⟨h1, rfl⟩
  · cases h
    exact .inr (.inl ⟨h1, h2, rfl⟩)
  · cases h
    exact .inr (.inr (.inl ⟨h1, h2, n, h3, rfl⟩))
  · obtain ⟨-, k⟩ | ⟨hi, r, hr, k, hk⟩ := executeStep_cases s.awake <;> rw [k] at h
    · cases h
    · cases h
      have hw : s.awake.fetchedInstr.wellFormed = true := by
        have hp : s.awake.fetchedInstr.isPrefix = false := decodeWindow_isPrefix _ _ _
        simp [Instr.wellFormed, hi, hp]
      exact .inr (.inr (.inr ⟨h1, h2, h3, _, r, rfl, hw, hr, hk, rfl⟩))

/-- Where a fault comes from. -/
theorem step_fault_cases {s : State} {e : Fault} (hf : s.cpu.fault = none) (h : step s = .fault e) :
    s.beginStep.staysStopped = false ∧ s.beginStep.leaveStop.staysHalted = false ∧
      s.awake.dispatchTarget = none ∧ s.awake.fetchedInstr.isInvalid = true ∧
      (s.awake.ready s.awake.fetchedInstr).raiseUnknownOpcode s.awake.window.1 = .fault e := by
  obtain ⟨-, h'⟩ | ⟨-, -, h'⟩ | ⟨-, -, n, -, h'⟩ | ⟨h1, h2, h3, h'⟩ := step_cases hf <;> rw [h'] at h
  · cases h
  · cases h
  · cases h
  · obtain ⟨hi, k⟩ | ⟨-, r, -, k, -⟩ := executeStep_cases s.awake <;> rw [k] at h
    · exact ⟨h1, h2, h3, hi, h⟩
    · cases h

/-- Once a step from a state without a fault has been taken, the first-step mark is set, also where it faults. -/
theorem step_stepped {s : State} (hf : s.cpu.fault = none) :
    (∀ t, step s = .next t → t.stepped = true) ∧
    (∀ r t, step s = .fault (.unknownOpcode r t) → t.stepped = true) := by
  constructor
  · intro t h
    obtain ⟨-, rfl⟩ | ⟨-, -, rfl⟩ | ⟨-, -, n, -, rfl⟩ | ⟨-, -, -, i, r, -, -, -, hk, rfl⟩ := step_next_cases hf h
    · rfl
    · rfl
    · simp [State.dispatchStep, State.takeInterrupt, State.push16, State.memWrite, State.storeBytes, wordBytes]
    · rw [State.finish_stepped, hk.stepped]
      simp [State.ready_eq]
  · intro r t h
    obtain ⟨-, -, -, -, h⟩ := step_fault_cases hf h
    cases h
    simp [State.ready_eq]

/-! ### Loads of the bus -/

/-- What a load of bus bytes answers: OutOfRange at a byte out of range, the refusal after the first step, else the
state with the bytes in memory. -/
theorem State.loadBytes_cases (s : State) (bytes : List (Word × Int)) :
    (∃ p ∈ bytes, inRange (some 8) p.2 = false ∧ s.loadBytes bytes = .fault (.outOfRange (.busByte p.1) p.2)) ∨
    ((∀ p ∈ bytes, inRange (some 8) p.2 = true) ∧ s.stepped = true ∧
      s.loadBytes bytes = .refused .busLoadAfterFirstStep) ∨
    ((∀ p ∈ bytes, inRange (some 8) p.2 = true) ∧ s.stepped = false ∧
      s.loadBytes bytes =
        .next (s.setBus (bytes.foldl (fun b p => b.load p.1.toNat (BitVec.ofInt 8 p.2)) s.bus))) := by
  cases h : bytes.find? (fun p => !inRange (some 8) p.2) with
  | some p =>
    exact .inl ⟨p, List.mem_of_find?_eq_some h, by simpa using List.find?_some h, by simp [State.loadBytes, h]⟩
  | none =>
    have hr : ∀ p ∈ bytes, inRange (some 8) p.2 = true := by simpa using h
    cases hs : s.stepped
    · exact .inr (.inr ⟨hr, rfl, by simp [State.loadBytes, h, hs]⟩)
    · exact .inr (.inl ⟨hr, rfl, by simp [State.loadBytes, h, hs]⟩)

end Sys2Proof.Machine
end

