-- ==== Sys2Proof/Tests/Slice0.lean ====
section
/-! SUPPORT. Tests of the model: well-formedness, words written out from the encodings, single steps from the vectors
of spec/95_test_vectors.md, and for each statement with hypotheses a state and operands that meet them. -/

namespace Sys2Proof.Tests

open Sys2Proof Sys2Proof.Machine

/-! ### Well-formedness: the prefix and the invalid rows are refused (spec/30_encoding.md R195, R196) -/

theorem test_wf_refuses_prefix : Instr.prefixCb.wellFormed = false := by decide
theorem test_wf_refuses_invalid :
    [Instr.invalidD3, .invalidDB, .invalidDD, .invalidE3, .invalidE4, .invalidEB, .invalidEC, .invalidED, .invalidF4,
      .invalidFC, .invalidFD].all (fun i => !i.wellFormed) = true := by decide
theorem test_wf_accepts : [Instr.nop, .jpA16 0xFFFF#16, .stop 0xFF#8, .bitMhl 7#3, .srlA].all Instr.wellFormed = true := by
  decide

/-! ### Decoding: words written out from the patterns of spec/30_encoding.md R203 and R204 -/

theorem test_decode_load8 :
    decode [0b01000001#8] = .ok (.ldBC, []) ∧ decode [0b01110000#8] = .ok (.ldMhlB, []) ∧
    decode [0b01111110#8, 0xAA#8] = .ok (.ldAMhl, [0xAA#8]) ∧ decode [0b00001010#8] = .ok (.ldAMbc, []) ∧
    decode [0b11101010#8, 0x23#8, 0xC1#8] = .ok (.ldMa16A 0xC123#16, []) ∧
    decode [0b11110000#8, 0x80#8] = .ok (.ldhAMa8 0x80#8, []) := by decide
theorem test_decode_load16 :
    decode [0b00100001#8, 0x34#8, 0x12#8] = .ok (.ldHlD16 0x1234#16, []) ∧
    decode [0b00001000#8, 0x00#8, 0xC0#8] = .ok (.ldMa16Sp 0xC000#16, []) ∧
    decode [0b11110101#8] = .ok (.pushAf, []) ∧ decode [0b11010001#8] = .ok (.popDe, []) := by decide
theorem test_decode_alu :
    decode [0b10000110#8] = .ok (.addAMhl, []) ∧ decode [0b10111111#8] = .ok (.cpA, []) ∧
    decode [0b11011110#8, 0x0F#8] = .ok (.sbcAD8 0x0F#8, []) ∧ decode [0b00110100#8] = .ok (.incMhl, []) ∧
    decode [0b00101001#8] = .ok (.addHlHl, []) ∧ decode [0b11101000#8, 0xFE#8] = .ok (.addSpE8 0xFE#8, []) := by
  decide
theorem test_decode_control :
    decode [0b11000010#8, 0x00#8, 0x20#8] = .ok (.jpNzA16 0x2000#16, []) ∧
    decode [0b00111000#8, 0x80#8] = .ok (.jrCE8 0x80#8, []) ∧
    decode [0b11010100#8, 0x00#8, 0xD0#8] = .ok (.callNcA16 0xD000#16, []) ∧
    decode [0b11001000#8] = .ok (.retZ, []) ∧ decode [0b11111111#8] = .ok (.rst38h, []) := by decide
theorem test_decode_cb :
    decode [0xCB#8, 0b00010110#8] = .ok (.rlMhl, []) ∧ decode [0xCB#8, 0b01111100#8] = .ok (.bitH 7#3, []) ∧
    decode [0xCB#8, 0b10000111#8] = .ok (.resA 0#3, []) ∧ decode [0xCB#8, 0b11110010#8] = .ok (.setD 6#3, []) := by
  decide
theorem test_decode_truncated :
    decode [] = .error .noBytes ∧ decode [0xC3#8, 0x00#8] = .error (.truncated 0xC3#8) ∧
    decode [0xCB#8] = .error (.truncated 0xCB#8) := by decide
theorem test_decode_invalid : decode [0xD3#8] = .ok (.invalidD3, []) := by decide
/-- The numbering of spec/opcode_table.json: the row of SET 3,(HL) has match 0xCBDE, those of one byte their byte. -/
theorem test_decodeTableWord :
    decodeTableWord 16 0xCBDE = some (.setMhl 3#3) ∧ decodeTableWord 8 0xFB = some .ei ∧
    decodeTableWord 8 0xC3 = some (.jpA16 0x0000#16) := by decide
/-- The word is stored where the next step fetches it. -/
theorem test_withFetchWord :
    (State.reset.withFetchWord 8 0x3C).fetchedInstr = .incA ∧
    (State.reset.withFetchWord 16 0xCB37).fetchedInstr = .swapA := by decide

/-! ### One step from the start state of spec/95_test_vectors.md section 2 -/

/-- The default start state of the vectors. -/
def start : Cpu where
  pc := 0xC000#16
  sp := 0xFFFE#16
  a := 0x00#8
  f := 0x00#8
  bc := 0x0000#16
  de := 0x0000#16
  hl := 0x0000#16
  prefixed := false
  ir := 0x00#8
  operandValue := 0x0000#16
  ie := 0x00#8
  ime := false
  halted := false
  imeScheduled := false
  stopped := false
  haltBugArmed := false
  cycles := 0
  fault := none

/-- A CPU state on FlatBus with stored bytes, 0x00 elsewhere as in every vector (spec/70_reset_and_hazards.md R603), and
the next step's request lines, STOP_WAKE 0. -/
def onFlat (c : Cpu) (mem : List Host.Cell) (irq : BitVec 5) : State :=
  { State.reset with
    cpu := c
    bus := { Bus.flat with mem := ⟨.known 0x00#8, mem⟩ }
    inputs := [⟨irq, false⟩]
    cur := StepLatch.rest c }

/-- The CPU state, the write log, the count and the acknowledge of one step. -/
def stepOf (c : Cpu) (mem : List Host.Cell) (irq : BitVec 5) : Option (Cpu × List WriteRecord × Nat × BitVec 5) :=
  match step (onFlat c mem irq) with
  | .next t => t.snapshot.map fun p => (p.after, p.writes, p.cycles, p.irqAck)
  | .fault _ => none
  | .refused _ => none

theorem test_V4_ld_a_hl :
    stepOf { start with hl := 0xFFFF#16, ie := 0x1F#8 } [(0xC000, 0x7E#8)] 0b00000#5 =
      some
        ({ start with pc := 0xC001#16, hl := 0xFFFF#16, a := 0x1F#8, ir := 0x7E#8, ie := 0x1F#8, cycles := 8 },
        [], 8, 0b00000#5) := by
  decide

theorem test_V6_ld_hl_d8 :
    stepOf { start with hl := 0xC300#16 } [(0xC000, 0x36#8), (0xC001, 0xAA#8)] 0b00000#5 =
      some
        ({ start with pc := 0xC002#16, hl := 0xC300#16, operandValue := 0x00AA#16, ir := 0x36#8, cycles := 12 },
        [⟨.mHL, 0xC300#16, [0xAA#8]⟩], 12, 0b00000#5) := by
  decide

theorem test_V10_ld_a16_a :
    stepOf { start with a := 0x1F#8 } [(0xC000, 0xEA#8), (0xC001, 0xFF#8), (0xC002, 0xFF#8)] 0b00000#5 =
      some
        ({ start with
            pc := 0xC003#16, operandValue := 0xFFFF#16, a := 0x1F#8, ir := 0xEA#8, ie := 0x1F#8, cycles := 16 },
        [⟨.ma16, 0xFFFF#16, [0x1F#8]⟩], 16, 0b00000#5) := by
  decide

theorem test_V11_ldh_a8_a :
    stepOf { start with a := 0x42#8 } [(0xC000, 0xE0#8), (0xC001, 0x80#8)] 0b00000#5 =
      some
        ({ start with pc := 0xC002#16, operandValue := 0x0080#16, a := 0x42#8, ir := 0xE0#8, cycles := 12 },
        [⟨.ma8, 0xFF80#16, [0x42#8]⟩], 12, 0b00000#5) := by
  decide

theorem test_V13_ld_c_a :
    stepOf { start with bc := 0x0010#16, a := 0x77#8 } [(0xC000, 0xE2#8)] 0b00000#5 =
      some
        ({ start with pc := 0xC001#16, bc := 0x0010#16, a := 0x77#8, ir := 0xE2#8, cycles := 8 },
        [⟨.mC, 0xFF10#16, [0x77#8]⟩], 8, 0b00000#5) := by
  decide

theorem test_V14_ld_a_c :
    stepOf { start with bc := 0x0044#16 } [(0xC000, 0xF2#8), (0xFF44, 0x0B#8)] 0b00000#5 =
      some
        ({ start with pc := 0xC001#16, bc := 0x0044#16, a := 0x0B#8, ir := 0xF2#8, cycles := 8 },
        [], 8, 0b00000#5) := by
  decide

theorem test_V15_ld_a_hl :
    stepOf { start with hl := 0xFFFF#16, ie := 0x05#8 } [(0xC000, 0x2A#8)] 0b00000#5 =
      some
        ({ start with pc := 0xC001#16, a := 0x05#8, ir := 0x2A#8, ie := 0x05#8, cycles := 8 },
        [], 8, 0b00000#5) := by
  decide

theorem test_V18_ld_hl_a :
    stepOf { start with a := 0x33#8 } [(0xC000, 0x32#8)] 0b00000#5 =
      some
        ({ start with pc := 0xC001#16, hl := 0xFFFF#16, a := 0x33#8, ir := 0x32#8, cycles := 8 },
        [⟨.mHLDec, 0x0000#16, [0x33#8]⟩], 8, 0b00000#5) := by
  decide

theorem test_V22_ld_a16_sp :
    stepOf { start with sp := 0x1234#16 } [(0xC000, 0x08#8), (0xC001, 0xFF#8), (0xC002, 0xFF#8)] 0b00000#5 =
      some
        ({ start with
            pc := 0xC003#16, sp := 0x1234#16, operandValue := 0xFFFF#16, ir := 0x08#8, ie := 0x34#8, cycles := 20 },
        [⟨.ma16, 0xFFFF#16, [0x34#8, 0x12#8]⟩], 20, 0b00000#5) := by
  decide

theorem test_V24_ld_hl_sp_e8 :
    stepOf { start with sp := 0x00FF#16 } [(0xC000, 0xF8#8), (0xC001, 0x01#8)] 0b00000#5 =
      some
        ({ start with
            pc := 0xC002#16, sp := 0x00FF#16, hl := 0x0100#16, operandValue := 0x0001#16, f := 0x30#8,
            ir := 0xF8#8, cycles := 12 }, [], 12, 0b00000#5) := by
  decide

theorem test_V25_ld_hl_sp_e8 :
    stepOf { start with sp := 0x0000#16 } [(0xC000, 0xF8#8), (0xC001, 0xFF#8)] 0b00000#5 =
      some
        ({ start with
            pc := 0xC002#16, sp := 0x0000#16, hl := 0xFFFF#16, operandValue := 0x00FF#16, ir := 0xF8#8,
            cycles := 12 }, [], 12, 0b00000#5) := by
  decide

theorem test_V28_push_af :
    stepOf { start with a := 0x12#8, f := 0xB0#8 } [(0xC000, 0xF5#8)] 0b00000#5 =
      some
        ({ start with pc := 0xC001#16, sp := 0xFFFC#16, a := 0x12#8, f := 0xB0#8, ir := 0xF5#8, cycles := 16 },
        [⟨.push, 0xFFFC#16, [0xB0#8, 0x12#8]⟩], 16, 0b00000#5) := by
  decide

theorem test_V29_push_de :
    stepOf { start with sp := 0x0001#16, de := 0xBEEF#16 } [(0xC000, 0xD5#8)] 0b00000#5 =
      some
        ({ start with pc := 0xC001#16, sp := 0xFFFF#16, de := 0xBEEF#16, ir := 0xD5#8, ie := 0xEF#8, cycles := 16 },
        [⟨.push, 0xFFFF#16, [0xEF#8, 0xBE#8]⟩], 16, 0b00000#5) := by
  decide

theorem test_V31_pop_af :
    stepOf { start with sp := 0xC010#16 } [(0xC000, 0xF1#8), (0xC010, 0xFF#8), (0xC011, 0xFF#8)] 0b00000#5 =
      some
        ({ start with pc := 0xC001#16, sp := 0xC012#16, a := 0xFF#8, f := 0xF0#8, ir := 0xF1#8, cycles := 12 },
        [], 12, 0b00000#5) := by
  decide

theorem test_V32_pop_bc :
    stepOf { start with ie := 0x56#8 } [(0xC000, 0xC1#8), (0xFFFE, 0x78#8)] 0b00000#5 =
      some
        ({ start with pc := 0xC001#16, sp := 0x0000#16, bc := 0x5678#16, ir := 0xC1#8, ie := 0x56#8, cycles := 12 },
        [], 12, 0b00000#5) := by
  decide

theorem test_V33_add_a_b :
    stepOf { start with bc := 0x0100#16, a := 0xFF#8 } [(0xC000, 0x80#8)] 0b00000#5 =
      some
        ({ start with pc := 0xC001#16, bc := 0x0100#16, f := 0xB0#8, ir := 0x80#8, cycles := 4 },
        [], 4, 0b00000#5) := by
  decide

theorem test_V36_adc_a_d8 :
    stepOf { start with f := 0x10#8 } [(0xC000, 0xCE#8), (0xC001, 0xFF#8)] 0b00000#5 =
      some
        ({ start with pc := 0xC002#16, operandValue := 0x00FF#16, f := 0xB0#8, ir := 0xCE#8, cycles := 8 },
        [], 8, 0b00000#5) := by
  decide

theorem test_V37_adc_a_c :
    stepOf { start with a := 0x0F#8, f := 0x10#8 } [(0xC000, 0x89#8)] 0b00000#5 =
      some
        ({ start with pc := 0xC001#16, a := 0x10#8, f := 0x20#8, ir := 0x89#8, cycles := 4 },
        [], 4, 0b00000#5) := by
  decide

theorem test_V39_sub_d8 :
    stepOf start [(0xC000, 0xD6#8), (0xC001, 0x01#8)] 0b00000#5 =
      some
        ({ start with
            pc := 0xC002#16, operandValue := 0x0001#16, a := 0xFF#8, f := 0x70#8, ir := 0xD6#8, cycles := 8 },
        [], 8, 0b00000#5) := by
  decide

theorem test_V40_sbc_a_b :
    stepOf { start with f := 0x10#8 } [(0xC000, 0x98#8)] 0b00000#5 =
      some
        ({ start with pc := 0xC001#16, a := 0xFF#8, f := 0x70#8, ir := 0x98#8, cycles := 4 },
        [], 4, 0b00000#5) := by
  decide

theorem test_V41_sbc_a_d8 :
    stepOf { start with a := 0x10#8 } [(0xC000, 0xDE#8), (0xC001, 0x0F#8)] 0b00000#5 =
      some
        ({ start with
            pc := 0xC002#16, operandValue := 0x000F#16, a := 0x01#8, f := 0x60#8, ir := 0xDE#8, cycles := 8 },
        [], 8, 0b00000#5) := by
  decide

theorem test_V43_and_b :
    stepOf { start with bc := 0x3C00#16, a := 0xF0#8, f := 0x10#8 } [(0xC000, 0xA0#8)] 0b00000#5 =
      some
        ({ start with pc := 0xC001#16, bc := 0x3C00#16, a := 0x30#8, f := 0x20#8, ir := 0xA0#8, cycles := 4 },
        [], 4, 0b00000#5) := by
  decide

theorem test_V45_or_hl :
    stepOf { start with hl := 0xC100#16, f := 0x70#8 } [(0xC000, 0xB6#8)] 0b00000#5 =
      some
        ({ start with pc := 0xC001#16, hl := 0xC100#16, f := 0x80#8, ir := 0xB6#8, cycles := 8 },
        [], 8, 0b00000#5) := by
  decide

theorem test_V46_cp_d8 :
    stepOf { start with a := 0x80#8 } [(0xC000, 0xFE#8), (0xC001, 0x90#8)] 0b00000#5 =
      some
        ({ start with
            pc := 0xC002#16, operandValue := 0x0090#16, a := 0x80#8, f := 0x50#8, ir := 0xFE#8, cycles := 8 },
        [], 8, 0b00000#5) := by
  decide

theorem test_V48_inc_a :
    stepOf { start with a := 0x0F#8, f := 0x10#8 } [(0xC000, 0x3C#8)] 0b00000#5 =
      some
        ({ start with pc := 0xC001#16, a := 0x10#8, f := 0x30#8, ir := 0x3C#8, cycles := 4 },
        [], 4, 0b00000#5) := by
  decide

theorem test_V49_inc_hl :
    stepOf { start with hl := 0xC100#16 } [(0xC000, 0x34#8), (0xC100, 0xFF#8)] 0b00000#5 =
      some
        ({ start with pc := 0xC001#16, hl := 0xC100#16, f := 0xA0#8, ir := 0x34#8, cycles := 12 },
        [⟨.mHL, 0xC100#16, [0x00#8]⟩], 12, 0b00000#5) := by
  decide

theorem test_V50_dec_b :
    stepOf { start with bc := 0x1000#16 } [(0xC000, 0x05#8)] 0b00000#5 =
      some
        ({ start with pc := 0xC001#16, bc := 0x0F00#16, f := 0x60#8, ir := 0x05#8, cycles := 4 },
        [], 4, 0b00000#5) := by
  decide

theorem test_V51_dec_hl :
    stepOf { start with hl := 0xC100#16, f := 0x10#8 } [(0xC000, 0x35#8), (0xC100, 0x01#8)] 0b00000#5 =
      some
        ({ start with pc := 0xC001#16, hl := 0xC100#16, f := 0xD0#8, ir := 0x35#8, cycles := 12 },
        [⟨.mHL, 0xC100#16, [0x00#8]⟩], 12, 0b00000#5) := by
  decide

theorem test_V53_inc_sp :
    stepOf { start with sp := 0xFFFF#16, f := 0xF0#8 } [(0xC000, 0x33#8)] 0b00000#5 =
      some
        ({ start with pc := 0xC001#16, sp := 0x0000#16, f := 0xF0#8, ir := 0x33#8, cycles := 8 },
        [], 8, 0b00000#5) := by
  decide

theorem test_V55_add_hl_hl :
    stepOf { start with hl := 0x8000#16, f := 0x80#8 } [(0xC000, 0x29#8)] 0b00000#5 =
      some
        ({ start with pc := 0xC001#16, f := 0x90#8, ir := 0x29#8, cycles := 8 }, [], 8, 0b00000#5) := by
  decide

theorem test_V56_add_hl_sp :
    stepOf { start with sp := 0x0001#16, hl := 0x0FFF#16 } [(0xC000, 0x39#8)] 0b00000#5 =
      some
        ({ start with pc := 0xC001#16, sp := 0x0001#16, hl := 0x1000#16, f := 0x20#8, ir := 0x39#8, cycles := 8 },
        [], 8, 0b00000#5) := by
  decide

theorem test_V58_add_sp_e8 :
    stepOf { start with sp := 0x0001#16 } [(0xC000, 0xE8#8), (0xC001, 0xFE#8)] 0b00000#5 =
      some
        ({ start with pc := 0xC002#16, sp := 0xFFFF#16, operandValue := 0x00FE#16, ir := 0xE8#8, cycles := 16 },
        [], 16, 0b00000#5) := by
  decide

theorem test_V59_add_sp_e8 :
    stepOf { start with sp := 0xFFFF#16 } [(0xC000, 0xE8#8), (0xC001, 0x01#8)] 0b00000#5 =
      some
        ({ start with
            pc := 0xC002#16, sp := 0x0000#16, operandValue := 0x0001#16, f := 0x30#8, ir := 0xE8#8, cycles := 16 },
        [], 16, 0b00000#5) := by
  decide

theorem test_V62_rlca :
    stepOf { start with f := 0x80#8 } [(0xC000, 0x07#8)] 0b00000#5 =
      some
        ({ start with pc := 0xC001#16, ir := 0x07#8, cycles := 4 }, [], 4, 0b00000#5) := by
  decide

theorem test_V65_rra :
    stepOf { start with a := 0x01#8 } [(0xC000, 0x1F#8)] 0b00000#5 =
      some
        ({ start with pc := 0xC001#16, f := 0x10#8, ir := 0x1F#8, cycles := 4 }, [], 4, 0b00000#5) := by
  decide

theorem test_V66_daa :
    stepOf { start with a := 0x9A#8 } [(0xC000, 0x27#8)] 0b00000#5 =
      some
        ({ start with pc := 0xC001#16, f := 0x90#8, ir := 0x27#8, cycles := 4 }, [], 4, 0b00000#5) := by
  decide

theorem test_V68_daa :
    stepOf { start with a := 0x0F#8, f := 0x60#8 } [(0xC000, 0x27#8)] 0b00000#5 =
      some
        ({ start with pc := 0xC001#16, a := 0x09#8, f := 0x40#8, ir := 0x27#8, cycles := 4 },
        [], 4, 0b00000#5) := by
  decide

theorem test_V70_cpl :
    stepOf { start with a := 0x35#8, f := 0x90#8 } [(0xC000, 0x2F#8)] 0b00000#5 =
      some
        ({ start with pc := 0xC001#16, a := 0xCA#8, f := 0xF0#8, ir := 0x2F#8, cycles := 4 },
        [], 4, 0b00000#5) := by
  decide

theorem test_V71_scf :
    stepOf { start with f := 0xE0#8 } [(0xC000, 0x37#8)] 0b00000#5 =
      some
        ({ start with pc := 0xC001#16, f := 0x90#8, ir := 0x37#8, cycles := 4 }, [], 4, 0b00000#5) := by
  decide

theorem test_V72_ccf :
    stepOf { start with f := 0x10#8 } [(0xC000, 0x3F#8)] 0b00000#5 =
      some
        ({ start with pc := 0xC001#16, ir := 0x3F#8, cycles := 4 }, [], 4, 0b00000#5) := by
  decide

theorem test_V73_nop :
    stepOf { start with a := 0x12#8, f := 0x50#8 } [] 0b00000#5 =
      some
        ({ start with pc := 0xC001#16, a := 0x12#8, f := 0x50#8, cycles := 4 }, [], 4, 0b00000#5) := by
  decide

theorem test_V75_jp_nz_a16 :
    stepOf start [(0xC000, 0xC2#8), (0xC002, 0x20#8)] 0b00000#5 =
      some
        ({ start with pc := 0x2000#16, operandValue := 0x2000#16, ir := 0xC2#8, cycles := 16 },
        [], 16, 0b00000#5) := by
  decide

theorem test_V76_jp_nz_a16 :
    stepOf { start with f := 0x80#8 } [(0xC000, 0xC2#8), (0xC002, 0x20#8)] 0b00000#5 =
      some
        ({ start with pc := 0xC003#16, operandValue := 0x2000#16, f := 0x80#8, ir := 0xC2#8, cycles := 12 },
        [], 12, 0b00000#5) := by
  decide

theorem test_V77_jp_hl :
    stepOf { start with hl := 0xC123#16 } [(0xC000, 0xE9#8)] 0b00000#5 =
      some
        ({ start with pc := 0xC123#16, hl := 0xC123#16, ir := 0xE9#8, cycles := 4 }, [], 4, 0b00000#5) := by
  decide

theorem test_V80_jr_c_e8 :
    stepOf { start with f := 0x10#8 } [(0xC000, 0x38#8), (0xC001, 0x80#8)] 0b00000#5 =
      some
        ({ start with pc := 0xBF82#16, operandValue := 0x0080#16, f := 0x10#8, ir := 0x38#8, cycles := 12 },
        [], 12, 0b00000#5) := by
  decide

theorem test_V81_jr_z_e8 :
    stepOf start [(0xC000, 0x28#8), (0xC001, 0x10#8)] 0b00000#5 =
      some
        ({ start with pc := 0xC002#16, operandValue := 0x0010#16, ir := 0x28#8, cycles := 8 },
        [], 8, 0b00000#5) := by
  decide

theorem test_V82_call_a16 :
    stepOf start [(0xC000, 0xCD#8), (0xC002, 0xD0#8)] 0b00000#5 =
      some
        ({ start with pc := 0xD000#16, sp := 0xFFFC#16, operandValue := 0xD000#16, ir := 0xCD#8, cycles := 24 },
        [⟨.call, 0xFFFC#16, [0x03#8, 0xC0#8]⟩], 24, 0b00000#5) := by
  decide

theorem test_V84_call_c_a16 :
    stepOf start [(0xC000, 0xDC#8), (0xC002, 0xD0#8)] 0b00000#5 =
      some
        ({ start with pc := 0xC003#16, operandValue := 0xD000#16, ir := 0xDC#8, cycles := 12 },
        [], 12, 0b00000#5) := by
  decide

theorem test_V86_ret_z :
    stepOf { start with sp := 0xC010#16, f := 0x80#8 } [(0xC000, 0xC8#8), (0xC010, 0x34#8), (0xC011, 0x12#8)]
      0b00000#5 =
      some
        ({ start with pc := 0x1234#16, sp := 0xC012#16, f := 0x80#8, ir := 0xC8#8, cycles := 20 },
        [], 20, 0b00000#5) := by
  decide

theorem test_V87_ret_nz :
    stepOf { start with sp := 0xC010#16, f := 0x80#8 } [(0xC000, 0xC0#8)] 0b00000#5 =
      some
        ({ start with pc := 0xC001#16, sp := 0xC010#16, f := 0x80#8, ir := 0xC0#8, cycles := 8 },
        [], 8, 0b00000#5) := by
  decide

theorem test_V88_reti :
    stepOf { start with sp := 0xC010#16 } [(0xC000, 0xD9#8), (0xC011, 0x02#8)] 0b00000#5 =
      some
        ({ start with pc := 0x0200#16, sp := 0xC012#16, ir := 0xD9#8, ime := true, cycles := 16 },
        [], 16, 0b00000#5) := by
  decide

theorem test_V89_rst_38h :
    stepOf start [(0xC000, 0xFF#8)] 0b00000#5 =
      some
        ({ start with pc := 0x0038#16, sp := 0xFFFC#16, ir := 0xFF#8, cycles := 16 },
        [⟨.rst, 0xFFFC#16, [0x01#8, 0xC0#8]⟩], 16, 0b00000#5) := by
  decide

theorem test_V91_halt :
    stepOf start [(0xC000, 0x76#8)] 0b00000#5 =
      some
        ({ start with pc := 0xC001#16, ir := 0x76#8, halted := true, cycles := 4 }, [], 4, 0b00000#5) := by
  decide

theorem test_V98_di :
    stepOf { start with ime := true } [(0xC000, 0xF3#8)] 0b00000#5 =
      some
        ({ start with pc := 0xC001#16, ir := 0xF3#8, cycles := 4 }, [], 4, 0b00000#5) := by
  decide

theorem test_V99_di :
    stepOf { start with imeScheduled := true } [(0xC000, 0xF3#8)] 0b00000#5 =
      some
        ({ start with pc := 0xC001#16, ir := 0xF3#8, cycles := 4 }, [], 4, 0b00000#5) := by
  decide

theorem test_V106_rlc_hl :
    stepOf { start with hl := 0xC100#16 } [(0xC000, 0xCB#8), (0xC001, 0x06#8), (0xC100, 0x80#8)] 0b00000#5 =
      some
        ({ start with pc := 0xC002#16, hl := 0xC100#16, f := 0x10#8, ir := 0x06#8, prefixed := true, cycles := 16 },
        [⟨.mHL, 0xC100#16, [0x01#8]⟩], 16, 0b00000#5) := by
  decide

theorem test_V107_rrc_c :
    stepOf { start with bc := 0x0001#16 } [(0xC000, 0xCB#8), (0xC001, 0x09#8)] 0b00000#5 =
      some
        ({ start with pc := 0xC002#16, bc := 0x0080#16, f := 0x10#8, ir := 0x09#8, prefixed := true, cycles := 8 },
        [], 8, 0b00000#5) := by
  decide

theorem test_V108_rl_a :
    stepOf { start with a := 0x80#8, f := 0x10#8 } [(0xC000, 0xCB#8), (0xC001, 0x17#8)] 0b00000#5 =
      some
        ({ start with pc := 0xC002#16, a := 0x01#8, f := 0x10#8, ir := 0x17#8, prefixed := true, cycles := 8 },
        [], 8, 0b00000#5) := by
  decide

theorem test_V109_rr_d :
    stepOf { start with de := 0x0100#16 } [(0xC000, 0xCB#8), (0xC001, 0x1A#8)] 0b00000#5 =
      some
        ({ start with pc := 0xC002#16, f := 0x90#8, ir := 0x1A#8, prefixed := true, cycles := 8 },
        [], 8, 0b00000#5) := by
  decide

theorem test_V110_sla_e :
    stepOf { start with de := 0x0080#16 } [(0xC000, 0xCB#8), (0xC001, 0x23#8)] 0b00000#5 =
      some
        ({ start with pc := 0xC002#16, f := 0x90#8, ir := 0x23#8, prefixed := true, cycles := 8 },
        [], 8, 0b00000#5) := by
  decide

theorem test_V111_sra_h :
    stepOf { start with hl := 0x8100#16 } [(0xC000, 0xCB#8), (0xC001, 0x2C#8)] 0b00000#5 =
      some
        ({ start with pc := 0xC002#16, hl := 0xC000#16, f := 0x10#8, ir := 0x2C#8, prefixed := true, cycles := 8 },
        [], 8, 0b00000#5) := by
  decide

theorem test_V112_swap_a :
    stepOf { start with f := 0x70#8 } [(0xC000, 0xCB#8), (0xC001, 0x37#8)] 0b00000#5 =
      some
        ({ start with pc := 0xC002#16, f := 0x80#8, ir := 0x37#8, prefixed := true, cycles := 8 },
        [], 8, 0b00000#5) := by
  decide

theorem test_V114_srl_a :
    stepOf { start with a := 0x01#8 } [(0xC000, 0xCB#8), (0xC001, 0x3F#8)] 0b00000#5 =
      some
        ({ start with pc := 0xC002#16, f := 0x90#8, ir := 0x3F#8, prefixed := true, cycles := 8 },
        [], 8, 0b00000#5) := by
  decide

theorem test_V115_bit_7_h :
    stepOf { start with hl := 0x8000#16, f := 0x50#8 } [(0xC000, 0xCB#8), (0xC001, 0x7C#8)] 0b00000#5 =
      some
        ({ start with pc := 0xC002#16, hl := 0x8000#16, f := 0x30#8, ir := 0x7C#8, prefixed := true, cycles := 8 },
        [], 8, 0b00000#5) := by
  decide

theorem test_V116_bit_0_hl :
    stepOf { start with hl := 0xC100#16 } [(0xC000, 0xCB#8), (0xC001, 0x46#8), (0xC100, 0xFE#8)] 0b00000#5 =
      some
        ({ start with pc := 0xC002#16, hl := 0xC100#16, f := 0xA0#8, ir := 0x46#8, prefixed := true, cycles := 12 },
        [], 12, 0b00000#5) := by
  decide

theorem test_V117_res_0_a :
    stepOf { start with a := 0x01#8, f := 0xF0#8 } [(0xC000, 0xCB#8), (0xC001, 0x87#8)] 0b00000#5 =
      some
        ({ start with pc := 0xC002#16, f := 0xF0#8, ir := 0x87#8, prefixed := true, cycles := 8 },
        [], 8, 0b00000#5) := by
  decide

theorem test_V118_res_7_hl :
    stepOf { start with hl := 0xC100#16 } [(0xC000, 0xCB#8), (0xC001, 0xBE#8), (0xC100, 0xFF#8)] 0b00000#5 =
      some
        ({ start with pc := 0xC002#16, hl := 0xC100#16, ir := 0xBE#8, prefixed := true, cycles := 16 },
        [⟨.mHL, 0xC100#16, [0x7F#8]⟩], 16, 0b00000#5) := by
  decide

theorem test_V119_set_7_hl :
    stepOf { start with hl := 0xFFFF#16, ie := 0x01#8 } [(0xC000, 0xCB#8), (0xC001, 0xFE#8)] 0b00000#5 =
      some
        ({ start with
            pc := 0xC002#16, hl := 0xFFFF#16, ir := 0xFE#8, ie := 0x81#8, prefixed := true, cycles := 16 },
        [⟨.mHL, 0xFFFF#16, [0x81#8]⟩], 16, 0b00000#5) := by
  decide

theorem test_V121_int_40h :
    stepOf { start with ie := 0x05#8, ime := true } [] 0b00101#5 =
      some
        ({ start with pc := 0x0040#16, sp := 0xFFFC#16, ie := 0x05#8, cycles := 20 },
        [⟨.int, 0xFFFC#16, [0x00#8, 0xC0#8]⟩], 20, 0b00001#5) := by
  decide

theorem test_V122_int_60h :
    stepOf { start with ie := 0x10#8, ime := true } [] 0b10000#5 =
      some
        ({ start with pc := 0x0060#16, sp := 0xFFFC#16, ie := 0x10#8, cycles := 20 },
        [⟨.int, 0xFFFC#16, [0x00#8, 0xC0#8]⟩], 20, 0b10000#5) := by
  decide

theorem test_V123_nop :
    stepOf { start with ie := 0x01#8, ime := true } [] 0b00010#5 =
      some
        ({ start with pc := 0xC001#16, ie := 0x01#8, ime := true, cycles := 4 }, [], 4, 0b00000#5) := by
  decide

theorem test_V128_int_40h :
    stepOf { start with ie := 0x01#8, ime := true, imeScheduled := true } [] 0b00001#5 =
      some
        ({ start with pc := 0x0040#16, sp := 0xFFFC#16, ie := 0x01#8, cycles := 20 },
        [⟨.int, 0xFFFC#16, [0x00#8, 0xC0#8]⟩], 20, 0b00001#5) := by
  decide

theorem test_V129_int_40h :
    stepOf { start with sp := 0x0001#16, ie := 0x01#8, ime := true } [] 0b00001#5 =
      some
        ({ start with pc := 0x0040#16, sp := 0xFFFF#16, cycles := 20 },
        [⟨.int, 0xFFFF#16, [0x00#8, 0xC0#8]⟩], 20, 0b00001#5) := by
  decide

/-- V102: the fault of 0xD3. -/
theorem test_V102_invalid :
    (match step (onFlat start [(0xC000, 0xD3#8)] 0b00000#5) with
     | .fault (.unknownOpcode r t) => some (r, t.cpu, t.snapshot)
     | _ => none) =
      some (⟨false, 0xD3#8, 0xC000#16⟩,
        { start with pc := 0xC001#16, fault := some ⟨false, 0xD3#8, 0xC000#16⟩ }, none) := by
  decide

/-- R480: with a request pending and IME = 0 the halt bug is armed, and the next opcode fetch holds PC (V93). -/
theorem test_V93_halt_bug :
    stepOf { start with ie := 0x01#8 } [(0xC000, 0x76#8)] 0b00001#5 =
      some ({ start with pc := 0xC001#16, ir := 0x76#8, ie := 0x01#8, haltBugArmed := true, cycles := 4 }, [], 4,
        0b00000#5) := by
  decide
theorem test_V93_bugged_fetch :
    stepOf { start with pc := 0xC001#16, ie := 0x01#8, haltBugArmed := true } [(0xC001, 0x3C#8)] 0b00001#5 =
      some ({ start with pc := 0xC001#16, a := 0x01#8, ir := 0x3C#8, ie := 0x01#8, cycles := 4 }, [], 4,
        0b00000#5) := by
  decide
/-- V125, its last step: the wake from HALT with IME = 1 dispatches, 24 cycles. -/
theorem test_V125_wake_and_dispatch :
    stepOf { start with pc := 0xC001#16, ime := true, ie := 0x01#8, halted := true } [] 0b00001#5 =
      some ({ start with pc := 0x0040#16, sp := 0xFFFC#16, ie := 0x01#8, cycles := 24 },
        [⟨.int, 0xFFFC#16, [0x01#8, 0xC0#8]⟩], 24, 0b00001#5) := by
  decide
/-- V96, its second step: stopped without STOP_WAKE. -/
theorem test_V96_stopped :
    stepOf { start with stopped := true, ie := 0x01#8, ime := true } [] 0b00001#5 =
      some ({ start with stopped := true, ie := 0x01#8, ime := true, cycles := 4 }, [], 4, 0b00000#5) := by
  decide
/-- DMGBus (spec/20_memory.md R134): a store to the echo reads back 0x2000 lower, ROM is not written, IF is
`0b111 : IF[4:0]`. -/
theorem test_dmg :
    ((Bus.dmg true).write 0xE000 0x5A#8).read 0 0xC000 = 0x5A#8 ∧
    (Bus.dmg true).write 0x7FFF 0x5A#8 = Bus.dmg true ∧ (Bus.dmg false).read 0 0xA000 = 0xFF#8 ∧
    ((Bus.dmg true).write 0xFF0F 0xFF#8).read 0 0xFF0F = 0xFF#8 ∧ (Bus.dmg true).read 0 0xFF0F = 0xE0#8 := by
  decide

/-! ### States and operands that meet the hypotheses of the statements -/

/-- A state for the statements about one instruction: every register has a value of its own. -/
def busy : State :=
  onFlat
    { start with
      sp := 0xD000#16, a := 0x45#8, f := 0x10#8, bc := 0x1234#16, de := 0x5678#16, hl := 0xC100#16 }
    [(0xC100, 0x99#8), (0xD000, 0x34#8), (0xD001, 0x12#8)] 0b00000#5

theorem witness_EncodeThenDecode : ∃ i : Instr, i.wellFormed = true := ⟨.jpA16 0xFFFF#16, rfl⟩
theorem witness_DecodeThenEncode :
    ∃ bytes rest i, decode bytes = .ok (i, rest) ∧ i.wellFormed = true :=
  ⟨[0xC3#8, 0xFF#8, 0xFF#8, 0x00#8], [0x00#8], .jpA16 0xFFFF#16, by decide, rfl⟩
theorem witness_ElevenInvalidOpcodes :
    (decodeWindow 0xD3#8 0x00#8 0x00#8).isInvalid = true ∧ (decodeWindow 0xFD#8 0xFF#8 0xFF#8).isInvalid = true ∧
    (decodeWindow 0x00#8 0x00#8 0x00#8).isInvalid = false ∧ (decodeWindow 0xFF#8 0xFF#8 0xFF#8).isInvalid = false := by
  decide

/-- A state that fetches and runs INC A, at the last address before IE. -/
def runsIncA : State := onFlat { start with pc := 0xFFFE#16 } [(0xFFFE, 0x3C#8)] 0b00000#5

theorem witness_StepRunsDecodedInstruction :
    runsIncA.cpu.fault = none ∧ runsIncA.beginStep.staysStopped = false ∧
    runsIncA.beginStep.leaveStop.staysHalted = false ∧
    runsIncA.beginStep.leaveStop.leaveHalt.dispatchTarget = none ∧
    decode [runsIncA.beginStep.leaveStop.leaveHalt.memRead runsIncA.beginStep.leaveStop.leaveHalt.cpu.pc,
      runsIncA.beginStep.leaveStop.leaveHalt.memRead runsIncA.beginStep.leaveStop.leaveHalt.afterOpcode,
      runsIncA.beginStep.leaveStop.leaveHalt.memRead
        (runsIncA.beginStep.leaveStop.leaveHalt.afterOpcode + 1#16)] = .ok (.incA, [0x00#8, 0x00#8]) ∧
    Instr.incA.wellFormed = true := by decide
theorem witness_StepRunsDecodedInstruction_next :
    ∃ t, exec .incA (runsIncA.beginStep.leaveStop.leaveHalt.ready .incA) = .next t := ⟨_, rfl⟩
theorem witness_WhatAnInstructionSees :
    ∃ (s : State) (i : Instr) (b0 b1 b2 : Byte) (first : Word), b0 = s.memRead s.cpu.pc ∧
      first = (if s.cpu.haltBugArmed then s.cpu.pc else s.cpu.pc + 1#16) ∧ b1 = s.memRead first ∧
      b2 = s.memRead (first + 1#16) ∧ i = s.fetchedInstr ∧ b0 = 0xCB#8 :=
  ⟨onFlat start [(0xC000, 0xCB#8), (0xC001, 0x37#8)] 0b00000#5, _, _, _, _, _, rfl, rfl, rfl, rfl, rfl,
    by decide⟩

/-- A stopped state with the next step's STOP_WAKE. -/
def stoppedWith (wake : Bool) : State :=
  { onFlat { start with stopped := true } [] 0b11111#5 with inputs := [⟨0b11111#5, wake⟩] }

theorem witness_StoppedStep :
    ((stoppedWith false).cpu.fault = none ∧ (stoppedWith false).cpu.stopped = true ∧
      (stoppedWith false).nextInputs.stopWake = false) ∧
    ((stoppedWith true).cpu.fault = none ∧ (stoppedWith true).cpu.stopped = true ∧
      (stoppedWith true).nextInputs.stopWake = true) := by decide

/-- A halted state with IME and the next step's request lines. -/
def haltedWith (ime : Bool) (irq : BitVec 5) : State :=
  onFlat { start with halted := true, ime := ime, ie := 0x10#8 } [] irq

theorem witness_HaltedStep :
    (∀ s ∈ [haltedWith true 0b01111#5, haltedWith true 0b10000#5, haltedWith false 0b10000#5],
      s.cpu.fault = none ∧ s.cpu.stopped = false ∧ s.cpu.halted = true) ∧
    (haltedWith true 0b01111#5).cpu.ie.extractLsb' 0 5 &&& (haltedWith true 0b01111#5).beginStep.cur.irq = 0#5 ∧
    (haltedWith true 0b10000#5).cpu.ie.extractLsb' 0 5 &&& (haltedWith true 0b10000#5).beginStep.cur.irq ≠ 0#5 ∧
    (haltedWith true 0b10000#5).cpu.ime = true ∧
    (haltedWith false 0b10000#5).cpu.ie.extractLsb' 0 5 &&& (haltedWith false 0b10000#5).beginStep.cur.irq ≠ 0#5 ∧
    (haltedWith false 0b10000#5).cpu.ime = false := by decide

/-- A state that dispatches the lowest of the requests. -/
def dispatching (irq : BitVec 5) : State := onFlat { start with ime := true, ie := 0x1F#8 } [] irq

theorem witness_DispatchStep_first :
    Memory.wf (dispatching 0b11111#5).bus.mem ∧ (dispatching 0b11111#5).cpu.fault = none ∧
    ((dispatching 0b11111#5).cpu.stopped = true → (dispatching 0b11111#5).nextInputs.stopWake = true) ∧
    (dispatching 0b11111#5).cpu.ime = true ∧
    ((dispatching 0b11111#5).cpu.ie.extractLsb' 0 5 &&& (dispatching 0b11111#5).beginStep.cur.irq).getLsbD 0 = true := by
  decide
theorem witness_DispatchStep_last :
    Memory.wf (dispatching 0b10000#5).bus.mem ∧ (dispatching 0b10000#5).cpu.fault = none ∧
    ((dispatching 0b10000#5).cpu.stopped = true → (dispatching 0b10000#5).nextInputs.stopWake = true) ∧
    (dispatching 0b10000#5).cpu.ime = true ∧
    ((dispatching 0b10000#5).cpu.ie.extractLsb' 0 5 &&& (dispatching 0b10000#5).beginStep.cur.irq).getLsbD 4 = true ∧
    (∀ m < 4,
      ((dispatching 0b10000#5).cpu.ie.extractLsb' 0 5 &&& (dispatching 0b10000#5).beginStep.cur.irq).getLsbD m =
        false) := by
  decide
theorem witness_DispatchStep_memory :
    let s := dispatching 0b10000#5
    s.keeps (s.cpu.sp - 2#16) ∧ ¬ s.sharesStorage (s.cpu.sp - 1#16) (s.cpu.sp - 2#16) ∧ s.keeps (s.cpu.sp - 1#16) ∧
    s.storageAt 0xC000#16 ≠ .interruptFlag ∧ ¬ s.sharesStorage (s.cpu.sp - 2#16) 0xC000#16 ∧
    ¬ s.sharesStorage (s.cpu.sp - 1#16) 0xC000#16 := by
  refine ⟨.inr (.inl rfl), ?_, .inr (.inl rfl), by decide, ?_, ?_⟩ <;> unfold State.sharesStorage <;> decide

/-- A state at an invalid opcode, and a state whose FAULT is set. -/
def atInvalid : State := onFlat start [(0xC000, 0xFD#8)] 0b00000#5
/-- The state after a fault. -/
def faulted : State := onFlat { start with fault := some ⟨false, 0xD3#8, 0xC000#16⟩ } [] 0b00000#5

theorem witness_StepOutcomes :
    faulted.cpu.fault = some ⟨false, 0xD3#8, 0xC000#16⟩ ∧ atInvalid.cpu.fault = none := ⟨rfl, rfl⟩
theorem witness_UnknownOpcodeStep :
    atInvalid.cpu.fault = none ∧ atInvalid.beginStep.staysStopped = false ∧
    atInvalid.beginStep.leaveStop.staysHalted = false ∧
    atInvalid.beginStep.leaveStop.leaveHalt.dispatchTarget = none ∧
    atInvalid.beginStep.leaveStop.leaveHalt.memRead atInvalid.beginStep.leaveStop.leaveHalt.cpu.pc ∈
      [0xD3#8, 0xDB#8, 0xDD#8, 0xE3#8, 0xE4#8, 0xEB#8, 0xEC#8, 0xED#8, 0xF4#8, 0xFC#8, 0xFD#8] := by decide
theorem witness_UnknownOpcodeStep_other :
    runsIncA.cpu.fault = none ∧ runsIncA.beginStep.staysStopped = false ∧
    runsIncA.beginStep.leaveStop.staysHalted = false ∧
    runsIncA.beginStep.leaveStop.leaveHalt.dispatchTarget = none ∧
    runsIncA.beginStep.leaveStop.leaveHalt.memRead runsIncA.beginStep.leaveStop.leaveHalt.cpu.pc ∉
      [0xD3#8, 0xDB#8, 0xDD#8, 0xE3#8, 0xE4#8, 0xEB#8, 0xEC#8, 0xED#8, 0xF4#8, 0xFC#8, 0xFD#8] := by decide

/-- A step that is an instruction, a dispatch, a halted and a stopped no-op, and a fault: the clauses of
PrefixedAndIr, ImePromotion and CyclesAndSnapshot. -/
theorem witness_step_instruction :
    ∃ t, step runsIncA = .next t ∧ t.snapshot.map Snapshot.kind = some (.instruction .incA) :=
  ⟨_, rfl, by decide⟩
theorem witness_step_interrupt :
    ∃ t, step (dispatching 0b10000#5) = .next t ∧ t.snapshot.map Snapshot.kind = some (.interrupt 4) :=
  ⟨_, rfl, by decide⟩
theorem witness_step_halted :
    ∃ t, step (haltedWith true 0b01111#5) = .next t ∧ t.snapshot.map Snapshot.kind = some .halted :=
  ⟨_, rfl, by decide⟩
theorem witness_step_stopped :
    ∃ t, step (stoppedWith false) = .next t ∧ t.snapshot.map Snapshot.kind = some .stopped :=
  ⟨_, rfl, by decide⟩
/-- JR NZ taken and not taken, the example of spec/46_control.md R444: 12 and 8. -/
theorem witness_CyclesAndSnapshot :
    (∃ t, step (onFlat { start with f := 0x00#8 } [(0xC000, 0x20#8), (0xC001, 0xFD#8)] 0b00000#5) = .next t ∧
      t.snapshot.map Snapshot.kind = some (.instruction (.jrNzE8 0xFD#8)) ∧ t.snapshot.map Snapshot.cycles = some 12) ∧
    (∃ t, step (onFlat { start with f := 0x80#8 } [(0xC000, 0x20#8), (0xC001, 0xFD#8)] 0b00000#5) = .next t ∧
      t.snapshot.map Snapshot.kind = some (.instruction (.jrNzE8 0xFD#8)) ∧ t.snapshot.map Snapshot.cycles = some 8) :=
  ⟨⟨_, rfl, by decide, by decide⟩, ⟨_, rfl, by decide, by decide⟩⟩
theorem witness_step_fault : ∃ r t, step atInvalid = .fault (.unknownOpcode r t) := ⟨_, _, rfl⟩
theorem witness_ImePromotion :
    ∃ t, step (onFlat { start with imeScheduled := true } [(0xC000, 0xFB#8)] 0b00000#5) = .next t ∧
      t.snapshot.map Snapshot.kind = some (.instruction .ei) :=
  ⟨_, rfl, by decide⟩
theorem witness_StepKeepsInv : ∃ s t : State, s.Inv ∧ step s = .next t :=
  ⟨runsIncA, _, by
    refine ⟨?_, ?_, ?_, ?_, ?_, rfl, rfl⟩ <;> decide, rfl⟩

/-- The clauses of the loads, at the two sides of each bound, before and after the first step. -/
theorem witness_OutOfRangeLoads :
    Memory.wf busy.bus.mem ∧ busy.stepped = false ∧ busy.cpu.fault = none ∧
    ({ busy with stepped := true } : State).stepped = true ∧
    (∀ p ∈ [((0xFFFF#16 : Word), (255 : Int)), (0x0000#16, 0)], 0 ≤ p.2 ∧ p.2 < 256) ∧
    (∃ p ∈ [((0xFFFF#16 : Word), (255 : Int)), (0x0000#16, 256)], p.2 < 0 ∨ 256 ≤ p.2) ∧
    (∃ p ∈ [((0x0000#16 : Word), (-1 : Int))], p.2 < 0 ∨ 256 ≤ p.2) ∧
    (∃ p ∈ [(CpuField.pc, (65536 : Int))], p.2 < 0 ∨ ∃ w, p.1.width = some w ∧ 2 ^ w ≤ p.2) ∧
    (∃ p ∈ [(CpuField.z, (2 : Int))], p.2 < 0 ∨ ∃ w, p.1.width = some w ∧ 2 ^ w ≤ p.2) ∧
    (∃ p ∈ [(CpuField.cycles, (-1 : Int))], p.2 < 0 ∨ ∃ w, p.1.width = some w ∧ 2 ^ w ≤ p.2) ∧
    ((0 : Int) ≤ 255 ∧ (255 : Int) < 256) ∧ ((0 : Int) ≤ 65535 ∧ (65535 : Int) < 65536) := by
  refine ⟨by decide, rfl, rfl, rfl, by decide, ⟨(0x0000#16, 256), by simp, .inr ?_⟩, ⟨_, List.mem_singleton_self _, .inl ?_⟩,
    ⟨_, List.mem_singleton_self _, .inr ⟨16, rfl, ?_⟩⟩, ⟨_, List.mem_singleton_self _, .inr ⟨1, rfl, ?_⟩⟩,
    ⟨_, List.mem_singleton_self _, .inl ?_⟩, ?_⟩ <;> decide

theorem witness_EveryWriteIsLogged : ∃ i s t, exec i s = .next t := ⟨.pushBc, busy, _, rfl⟩
theorem witness_EveryWriteIsLogged_outside :
    ¬ busy.sharesStorage 0xCFFE#16 0xC100#16 ∧ ¬ busy.sharesStorage 0xCFFF#16 0xC100#16 := by
  simp only [State.sharesStorage]
  decide
/-- Two memories that differ at 0xFFFF only, one of which holds a byte there. -/
theorem witness_BusByteAtIeIsHidden :
    ∃ (s : State) (m : Memory) (t : State), s.bus.regions = [] ∧ Memory.wf s.bus.mem ∧ Memory.wf m ∧
      (∀ a, a ≠ 0xFFFF → Memory.read m a = Memory.read s.bus.mem a) ∧ Memory.read m 0xFFFF = 0x01#8 ∧
      step s = .next t := by
  refine ⟨runsIncA, ⟨.known 0x00#8, [(0xFFFE, 0x3C#8), (0xFFFF, 0x01#8)]⟩, _, rfl, by decide, by decide, ?_, rfl, rfl⟩
  intro a ha
  simp only [runsIncA, onFlat, Memory.read, lookCells, Ne.symm ha, if_false]
theorem witness_BusByteAtIeIsHidden_fault :
    atInvalid.bus.regions = [] ∧ atInvalid.cpu.fault = none ∧ ∃ r t, step atInvalid = .fault (.unknownOpcode r t) :=
  ⟨rfl, rfl, _, _, rfl⟩
/-- One row for each symbol of each flag. -/
theorem witness_FlagsFollowTheDescriptor :
    (∀ i ∈ [Instr.scf, .rlca, .andB, .subB, .cpl], i.wellFormed = true) ∧ (∃ t, exec .scf busy = .next t) ∧
    (instrDescriptor .scf).flags = ⟨.unaffected, .cleared, .cleared, .set⟩ ∧
    (instrDescriptor .rlca).flags = ⟨.cleared, .cleared, .cleared, .computed⟩ ∧
    (instrDescriptor .andB).flags = ⟨.computed, .cleared, .set, .cleared⟩ ∧
    (instrDescriptor .subB).flags = ⟨.computed, .set, .computed, .computed⟩ ∧
    (instrDescriptor .cpl).flags = ⟨.unaffected, .set, .set, .unaffected⟩ :=
  ⟨by decide, ⟨_, rfl⟩, rfl, rfl, rfl, rfl, rfl⟩
theorem witness_LowNibbleOfFAndRegisterHalves : R8.b ≠ .mHL := by decide
theorem witness_ArbiterRoutesIe : (0xFFFE#16 : Word) ≠ 0xFFFF#16 ∧ (0x0000#16 : Word) ≠ 0xFFFF#16 := by decide
/-- At 0xFFFF, where the two bytes are in IE and at 0x0000, and at 0xFFFE. -/
theorem witness_LittleEndianStore :
    Memory.wf busy.bus.mem ∧ busy.bus.regions = [] ∧
    (busy.keeps 0xFFFF#16 ∧ busy.keeps (0xFFFF#16 + 1#16) ∧ ¬ busy.sharesStorage (0xFFFF#16 + 1#16) 0xFFFF#16) ∧
    (busy.keeps 0xFFFE#16 ∧ busy.keeps (0xFFFE#16 + 1#16) ∧ ¬ busy.sharesStorage (0xFFFE#16 + 1#16) 0xFFFE#16) ∧
    ¬ busy.sharesStorage 0xFFFF#16 0x0001#16 ∧ ¬ busy.sharesStorage (0xFFFF#16 + 1#16) 0x0001#16 := by
  refine ⟨by decide, rfl, ⟨.inl rfl, .inr (.inl rfl), ?_⟩, ⟨.inr (.inl rfl), .inl rfl, ?_⟩, ?_, ?_⟩ <;>
    unfold State.sharesStorage <;> decide
/-- A region of each kind, at its first and its last address. -/
theorem witness_BusReadsAndWrites :
    Memory.wf (Bus.dmg false).mem ∧ (Bus.dmg false).kindAt 0x8000 = .ram ∧ (Bus.dmg false).kindAt 0x9FFF = .ram ∧
    (Bus.dmg false).kindAt 0xA000 = .unmapped ∧ (Bus.dmg false).kindAt 0xBFFF = .unmapped ∧
    (Bus.dmg false).kindAt 0x0000 = .rom ∧ (Bus.dmg false).kindAt 0x7FFF = .rom ∧ Bus.flat.regions = [] := by
  decide
theorem witness_DmgMemoryMap :
    (0x0000 < 0xFFFF ∧ 0xFFFE < 0xFFFF) ∧ (Bus.dmg true).regions = dmgRegions true ∧
    (0xE000 ≤ 0xE000 ∧ 0xE000 ≤ 0xFDFF) ∧ (0xE000 ≤ 0xFDFF ∧ 0xFDFF ≤ 0xFDFF) := by decide
/-- The map at the first and the last address of every row of spec/20_memory.md R134. -/
theorem test_dmg_boundaries :
    [0x0000, 0x7FFF, 0x8000, 0x9FFF, 0xA000, 0xBFFF, 0xC000, 0xDFFF, 0xE000, 0xFDFF, 0xFE00, 0xFE9F, 0xFEA0, 0xFEFF,
      0xFF00, 0xFF0E, 0xFF0F, 0xFF10, 0xFF7F, 0xFF80, 0xFFFE].map (Bus.dmg true).kindAt =
    [.rom, .rom, .ram, .ram, .ram, .ram, .ram, .ram, .echo 0x2000, .echo 0x2000, .ram, .ram, .unmapped, .unmapped,
      .device, .device, .interruptFlag, .device, .device, .ram, .ram] := by decide
theorem witness_PushThenPop :
    Instr.pushAf.form = .push .af ∧ Instr.popAf.form = .pop .af ∧ busy.bus.regions = [] ∧
    Memory.wf busy.bus.mem := ⟨rfl, rfl, rfl, by decide⟩

theorem busy_wf : Memory.wf busy.bus.mem := by decide

theorem witness_LoadRegister :
    LoadsR8 .ldBC busy .b (busy.readR8 .c) ∧ LoadsR8 .ldAMhl busy .a (busy.readR8 .mHL) ∧
    LoadsR8 (.ldAD8 0xFF#8) busy .a 0xFF#8 :=
  ⟨⟨by decide, .inl ⟨.c, rfl, rfl⟩⟩, ⟨by decide, .inl ⟨.mHL, rfl, rfl⟩⟩, ⟨by decide, .inr rfl⟩⟩
theorem witness_StoreAtHL :
    StoresAtHL .ldMhlA busy (busy.readR8 .a) ∧ StoresAtHL (.ldMhlD8 0x00#8) busy 0x00#8 ∧ Memory.wf busy.bus.mem :=
  ⟨.inl ⟨.a, by decide, rfl, rfl⟩, .inr rfl, busy_wf⟩
theorem witness_LoadAccumulator :
    LoadsA .ldAMbc busy busy.cpu.bc busy.cpu.hl ∧ LoadsA .ldAMhlDec busy busy.cpu.hl (busy.cpu.hl - 1#16) ∧
    LoadsA (.ldAMa16 0xFFFF#16) busy 0xFFFF#16 busy.cpu.hl ∧
    LoadsA (.ldhAMa8 0xFF#8) busy (0xFF#8 ++ 0xFF#8) busy.cpu.hl ∧
    ∃ t : State, t = { busy with cpu := { busy.cpu with a := busy.memRead busy.cpu.bc, hl := busy.cpu.hl } } :=
  ⟨.inl ⟨rfl, rfl, rfl⟩, .inr (.inr (.inr (.inl ⟨rfl, rfl, rfl⟩))), .inr (.inr (.inr (.inr (.inl ⟨rfl, rfl⟩)))),
    .inr (.inr (.inr (.inr (.inr (.inl ⟨0xFF#8, rfl, rfl, rfl⟩))))), _, rfl⟩
theorem witness_StoreAccumulator :
    StoresA .ldMdeA busy .mDE busy.cpu.de busy.cpu.hl ∧ StoresA .ldMhlIncA busy .mHLInc busy.cpu.hl (busy.cpu.hl + 1#16) ∧
    StoresA (.ldMa16A 0xFFFF#16) busy .ma16 0xFFFF#16 busy.cpu.hl ∧ Memory.wf busy.bus.mem :=
  ⟨.inr (.inl ⟨rfl, rfl, rfl, rfl⟩), .inr (.inr (.inl ⟨rfl, rfl, rfl, rfl⟩)),
    .inr (.inr (.inr (.inr (.inl ⟨rfl, rfl, rfl⟩)))), busy_wf⟩
theorem witness_SetPair :
    SetsR16 (.ldSpD16 0xFFFF#16) busy .sp 0xFFFF#16 ∧ SetsR16 .ldSpHl busy .sp busy.cpu.hl ∧
    SetsR16 .incBc busy .bc (busy.readR16 .bc + 1#16) ∧ SetsR16 .decDe busy .de (busy.readR16 .de - 1#16) :=
  ⟨.inl rfl, .inr (.inl ⟨rfl, rfl, rfl⟩), .inr (.inr (.inl ⟨rfl, rfl⟩)), .inr (.inr (.inr ⟨rfl, rfl⟩))⟩
theorem witness_StoreSp : (Instr.ldMa16Sp 0xFFFF#16).form = .ldMa16Sp 0xFFFF#16 ∧ Memory.wf busy.bus.mem :=
  ⟨rfl, busy_wf⟩
theorem witness_PushStoresPair :
    Instr.pushAf.form = .push .af ∧ Memory.wf busy.bus.mem ∧ ∃ v : Word, v = busy.cpu.a ++ (busy.cpu.f &&& 0xF0#8) :=
  ⟨rfl, busy_wf, _, rfl⟩
theorem witness_PopLoadsPair :
    Instr.popBc.form = .pop .bc ∧
    ∃ t : State, t = { busy with cpu := { busy.cpu with bc := busy.wordAt busy.cpu.sp, sp := busy.cpu.sp + 2#16 } } :=
  ⟨rfl, _, rfl⟩
theorem witness_SpPlusDisplacement :
    (Instr.ldHlSpE8 0x80#8).form = .ldHlSp 0x80#8 ∧ (Instr.addSpE8 0x7F#8).form = .addSp 0x7F#8 ∧
    ∃ (t : State) (sum : Word) (f : Byte), sum = BitVec.ofInt 16 (busy.cpu.sp.toNat + (0x80#8).toInt) ∧
      f = flagByte false false (decide (busy.cpu.sp.toNat % 16 + (0x80#8).toNat % 16 > 15))
        (decide (busy.cpu.sp.toNat % 256 + (0x80#8).toNat > 255)) ∧
      t = { busy with cpu := { busy.cpu with hl := sum, f := f } } :=
  ⟨rfl, rfl, _, _, _, rfl, rfl, rfl⟩
theorem witness_AddToHL : Instr.addHlSp.form = .addHl .sp ∧ Instr.addHlHl.form = .addHl .hl := ⟨rfl, rfl⟩
theorem witness_AddAndAdc :
    HasAluOperand .addAB .add busy (busy.readR8 .b) ∧ HasAluOperand (.adcAD8 0xFF#8) .adc busy 0xFF#8 ∧
    busy.flagC.toNat = 1 := ⟨.inl ⟨.b, rfl, rfl⟩, .inr rfl, by decide⟩
theorem witness_SubSbcAndCp :
    HasAluOperand .subMhl .sub busy (busy.readR8 .mHL) ∧ HasAluOperand (.sbcAD8 0xFF#8) .sbc busy 0xFF#8 ∧
    HasAluOperand .cpA .cp busy (busy.readR8 .a) ∧
    ∃ t : State, t.cpu.a = busy.cpu.a ∧ t = { busy with cpu := { busy.cpu with a := t.cpu.a, f := 0xC0#8 } } :=
  ⟨.inl ⟨.mHL, rfl, rfl⟩, .inr rfl, .inl ⟨.a, rfl, rfl⟩, { busy with cpu := { busy.cpu with f := 0xC0#8 } }, rfl, rfl⟩
theorem witness_AndXorOr :
    HasAluOperand .andB .and busy (busy.readR8 .b) ∧ HasAluOperand (.xorD8 0x00#8) .xor busy 0x00#8 ∧
    HasAluOperand .orMhl .or busy (busy.readR8 .mHL) := ⟨.inl ⟨.b, rfl, rfl⟩, .inr rfl, .inl ⟨.mHL, rfl, rfl⟩⟩
theorem witness_IncDecRegister :
    R8.a ≠ .mHL ∧ Instr.incA.form = .inc .a ∧ R8.l ≠ .mHL ∧ Instr.decL.form = .dec .l :=
  ⟨by decide, rfl, by decide, rfl⟩
theorem witness_IncDecAtHL :
    Memory.wf busy.bus.mem ∧ busy.memRead busy.cpu.hl = 0x99#8 ∧ Instr.incMhl.form = .inc .mHL ∧
    Instr.decMhl.form = .dec .mHL := ⟨busy_wf, by decide, rfl, rfl⟩
theorem witness_RotateAccumulator :
    Instr.rlca.form = .rlca ∧ Instr.rrca.form = .rrca ∧ Instr.rla.form = .rla ∧ Instr.rra.form = .rra :=
  ⟨rfl, rfl, rfl, rfl⟩
theorem witness_DaaCorrectsByFlags :
    Instr.daa.form = .daa ∧
    ∃ (low high : Bool) (adj : Nat) (res : Byte),
      low = (busy.flagH || (!busy.flagN && decide (busy.cpu.a.toNat % 16 > 9))) ∧
      high = (busy.flagC || (!busy.flagN && decide (busy.cpu.a.toNat > 0x99))) ∧
      adj = (if low then 0x06 else 0) + (if high then 0x60 else 0) ∧
      res = BitVec.ofNat 8 (if busy.flagN then busy.cpu.a.toNat + 256 - adj else busy.cpu.a.toNat + adj) :=
  ⟨rfl, _, _, _, _, rfl, rfl, rfl, rfl⟩
theorem witness_DaaMakesBcd :
    Instr.daa.form = .daa ∧ isBcd busy.cpu.a ∧ isBcd 0x99#8 ∧ HasAluOperand (.addAD8 0x99#8) .add busy 0x99#8 ∧
    HasAluOperand (.subD8 0x99#8) .sub busy 0x99#8 := ⟨rfl, by unfold isBcd; decide, by unfold isBcd; decide, .inr rfl, .inr rfl⟩
theorem witness_CplScfCcfNop :
    Instr.cpl.form = .cpl ∧ Instr.scf.form = .scf ∧ Instr.ccf.form = .ccf ∧ Instr.nop.form = .nop :=
  ⟨rfl, rfl, rfl, rfl⟩
theorem witness_JumpsWritePc :
    (Instr.jpA16 0xFFFF#16).form = .jp 0xFFFF#16 ∧ Instr.jpHl.form = .jpHL ∧ (Instr.jrE8 0x80#8).form = .jr 0x80#8 ∧
    (Instr.jpNcA16 0x0000#16).form = .jpCond .nc 0x0000#16 ∧ (Instr.jrZE8 0x7F#8).form = .jrCond .z 0x7F#8 :=
  ⟨rfl, rfl, rfl, rfl, rfl⟩
theorem witness_CallsAndRestarts :
    Memory.wf busy.bus.mem ∧ (Instr.callA16 0xFFFF#16).form = .call 0xFFFF#16 ∧
    ((Instr.callCA16 0x0000#16).form = .callCond .c 0x0000#16 ∧ busy.cond .c = true) ∧
    ((Instr.callZA16 0x0000#16).form = .callCond .z 0x0000#16 ∧ busy.cond .z = false) ∧
    Instr.rst00h.form = .rst 0#3 ∧ Instr.rst38h.form = .rst 7#3 :=
  ⟨busy_wf, rfl, ⟨rfl, by decide⟩, ⟨rfl, by decide⟩, rfl, rfl⟩
theorem witness_ReturnsPopPc :
    Instr.ret.form = .ret ∧ (Instr.retNz.form = .retCond .nz ∧ busy.cond .nz = true) ∧
    (Instr.retNc.form = .retCond .nc ∧ busy.cond .nc = false) ∧ Instr.reti.form = .reti :=
  ⟨rfl, ⟨rfl, by decide⟩, ⟨rfl, by decide⟩, rfl⟩

/-- A state that executes HALT: IE, the request lines of the step, IME and HALT_BUG. -/
def haltCase (irq : BitVec 5) (ime bug : Bool) : State :=
  { onFlat { start with ie := 0x10#8, ime := ime } [] 0b00000#5 with
    params := ⟨bug, .postBootDMG⟩
    cur := { StepLatch.rest start with irq := irq } }

theorem witness_HaltCases :
    Instr.halt.form = .halt ∧
    (haltCase 0b01111#5 false true).cpu.ie.extractLsb' 0 5 &&& (haltCase 0b01111#5 false true).cur.irq = 0#5 ∧
    ((haltCase 0b10000#5 true true).cpu.ie.extractLsb' 0 5 &&& (haltCase 0b10000#5 true true).cur.irq ≠ 0#5 ∧
      (haltCase 0b10000#5 true true).cpu.ime = true) ∧
    ((haltCase 0b10000#5 false true).cpu.ie.extractLsb' 0 5 &&& (haltCase 0b10000#5 false true).cur.irq ≠ 0#5 ∧
      (haltCase 0b10000#5 false true).cpu.ime = false ∧ (haltCase 0b10000#5 false true).params.haltBug = true) ∧
    ((haltCase 0b10000#5 false false).cpu.ie.extractLsb' 0 5 &&& (haltCase 0b10000#5 false false).cur.irq ≠ 0#5 ∧
      (haltCase 0b10000#5 false false).cpu.ime = false ∧ (haltCase 0b10000#5 false false).params.haltBug = false) := by
  decide
theorem witness_StopDiEi : (Instr.stop 0xFF#8).form = .stop 0xFF#8 ∧ Instr.di.form = .di ∧ Instr.ei.form = .ei :=
  ⟨rfl, rfl, rfl⟩
theorem witness_InvalidRowsFault :
    Instr.invalidD3.form = .invalid 0xD3#8 ∧ Instr.invalidFD.form = .invalid 0xFD#8 := ⟨rfl, rfl⟩
theorem witness_PrefixRunsTheCbInstruction :
    Instr.prefixCb.form = .prefixCB ∧
    ∃ (u : State) (op : Byte), op = busy.memRead busy.cpu.pc ∧
      u = { busy with cpu := { busy.cpu with pc := busy.cpu.pc + 1#16, ir := op, prefixed := true } } :=
  ⟨rfl, _, _, rfl, rfl⟩
theorem witness_CbRotateRegister : Instr.rlcB.form = .rot .rlc .b ∧ R8.b ≠ .mHL ∧ Instr.srlA.form = .rot .srl .a :=
  ⟨rfl, by decide, rfl⟩
theorem witness_CbRotateAtHL : Instr.swapMhl.form = .rot .swap .mHL ∧ Memory.wf busy.bus.mem := ⟨rfl, busy_wf⟩
theorem witness_BitTestsOneBit :
    (Instr.bitMhl 7#3).form = .bit 7#3 .mHL ∧
    ∃ t : State, t = { busy with cpu :=
      { busy.cpu with f := flagByte (!(busy.readR8 .mHL).getLsbD (7#3).toNat) false true busy.flagC } } :=
  ⟨rfl, _, rfl⟩
theorem witness_ResetSetRegister :
    R8.a ≠ .mHL ∧ (Instr.resA 0#3).form = .res 0#3 .a ∧ (Instr.setA 7#3).form = .set 7#3 .a := ⟨by decide, rfl, rfl⟩
theorem witness_ResetSetAtHL :
    Memory.wf busy.bus.mem ∧ (Instr.resMhl 0#3).form = .res 0#3 .mHL ∧ (Instr.setMhl 7#3).form = .set 7#3 .mHL :=
  ⟨busy_wf, rfl, rfl⟩

end Sys2Proof.Tests
end

section
/-! PROOFS. The statements of spec/00_scope.md: the flags follow the flags-effect string (R12, R200, R243), and the
host's loads (R19, R71, R133, R552). -/

namespace Sys2Proof.Machine

/-! ### What a flags-effect string says -/

/-- A symbol allows a flag to go from `before` to `after` (spec/00_scope.md R12). -/
def FlagEffect.allows (e : FlagEffect) (before after : Bool) : Prop :=
  (e = .unaffected → after = before) ∧ (e = .set → after = true) ∧ (e = .cleared → after = false)

/-- A string allows the flags of `s` to become those of `t`. -/
def FlagEffects.allows (e : FlagEffects) (s t : State) : Prop :=
  e.z.allows s.flagZ t.flagZ ∧ e.n.allows s.flagN t.flagN ∧ e.h.allows s.flagH t.flagH ∧ e.c.allows s.flagC t.flagC

/-- An argument of `SetFlags` does what a symbol says, whatever the flag was before. -/
def FlagEffect.fits : FlagEffect → Option Bool → Prop
  | .unaffected, o => o = none
  | .set, o => o = some true
  | .cleared, o => o = some false
  | .computed, _ => True

theorem FlagEffect.computed_allows (b a : Bool) : FlagEffect.computed.allows b a := ⟨nofun, nofun, nofun⟩

theorem FlagEffect.allows_of_fits {e : FlagEffect} {o : Option Bool} (h : e.fits o) (b : Bool) :
    e.allows b (o.getD b) := by
  cases e with
  | computed => exact computed_allows _ _
  | unaffected | set | cleared =>
    cases h
    simp [allows]

/-- An instruction that leaves F satisfies `----`. -/
theorem FlagEffects.keepAll_allows {s t : State} (hf : t.cpu.f = s.cpu.f) : FlagEffects.keepAll.allows s t := by
  simp [allows, FlagEffect.allows, keepAll, State.flagZ, State.flagN, State.flagH, State.flagC, hf]

/-- An instruction that ends with `SetFlags` satisfies a string whose symbols its arguments fit, if it left F till
then. -/
theorem FlagEffects.allows_setFlags {e : FlagEffects} {s u : State} {z n h c : Option Bool} (hf : u.cpu.f = s.cpu.f)
    (hz : e.z.fits z) (hn : e.n.fits n) (hh : e.h.fits h) (hc : e.c.fits c) : e.allows s (u.setFlags z n h c) := by
  simp only [allows, State.flagZ, State.flagN, State.flagH, State.flagC, State.setFlags_cpu, flagByte_bit7,
    flagByte_bit6, flagByte_bit5, flagByte_bit4, hf]
  exact ⟨FlagEffect.allows_of_fits hz _, FlagEffect.allows_of_fits hn _, FlagEffect.allows_of_fits hh _,
    FlagEffect.allows_of_fits hc _⟩

/-! ### Which operations leave F -/

theorem State.writeR8_f (s : State) (r : R8) (v : Byte) : (s.writeR8 r v).cpu.f = s.cpu.f := by
  cases r <;> simp [State.writeR8]

theorem State.writeR16_f (s : State) (rr : R16) (v : Word) : (s.writeR16 rr v).cpu.f = s.cpu.f := by
  cases rr <;> rfl

theorem State.stepPointer_f (s : State) (p : R16Mem) : (s.stepPointer p).cpu.f = s.cpu.f := by
  cases p <;> rfl

theorem State.storeA_f (s : State) (label : WriteLabel) (a : Word) : (s.storeA label a).cpu.f = s.cpu.f := by
  simp [State.storeA]

theorem State.callTo_f (s : State) (label : WriteLabel) (target : Word) : (s.callTo label target).cpu.f = s.cpu.f := by
  simp [State.callTo]

/-- A conditional transfer leaves F if the transfer does. -/
theorem conditional_f {s t : State} {c : Prop} [Decidable c] (hf : t.cpu.f = s.cpu.f) :
    (if c then t.setTaken true else s.setTaken false).cpu.f = s.cpu.f := by
  split
  · exact hf
  · rfl

theorem execHalt_f {s t : State} (h : execHalt s = .next t) : t.cpu.f = s.cpu.f := by
  unfold execHalt at h
  split at h
  · cases h
    rfl
  · split_ifs at h <;> cases h <;> rfl

/-! ### Each form follows its string -/

theorem aluOp_allows (s : State) (op : AluOp) (v : Byte) : (AluOp.flags op).allows s (s.aluOp op v) := by
  cases op <;> exact FlagEffects.allows_setFlags rfl trivial rfl (by constructor) (by constructor)

theorem rotate_allows (s : State) (op : RotOp) (r : R8) : (Form.flags (.rot op r)).allows s
    ((s.writeR8 r (rotate op (s.readR8 r) s.flagC).1).setFlags
      (some (decide ((rotate op (s.readR8 r) s.flagC).1 = 0#8))) (some false) (some false)
      (some (rotate op (s.readR8 r) s.flagC).2)) := by
  cases op <;> exact FlagEffects.allows_setFlags (State.writeR8_f _ _ _) trivial rfl rfl (by constructor)

/-- Every form but PREFIX CB follows its flags-effect string: it leaves F, or ends with a `SetFlags` that fits. -/
theorem familyMeaning_allows {f : Form} {s t : State} (hp : f ≠ .prefixCB) (h : familyMeaning f s = .next t) :
    (Form.flags f).allows s t := by
  cases f
  case prefixCB => exact absurd rfl hp
  case halt => exact FlagEffects.keepAll_allows (execHalt_f h)
  all_goals cases h
  case nop | stop | di | ei | jp | jpHL | jr | ret | reti | ldSpHl | ldAMa16 | ldhAMa8 | ldAMc =>
    exact FlagEffects.keepAll_allows rfl
  case ld | ldImm | res | set => exact FlagEffects.keepAll_allows (State.writeR8_f _ _ _)
  case ld16 | inc16 | dec16 => exact FlagEffects.keepAll_allows (State.writeR16_f _ _ _)
  case ldAInd p => exact FlagEffects.keepAll_allows (State.stepPointer_f _ p)
  case ldIndA p => exact FlagEffects.keepAll_allows ((State.stepPointer_f _ p).trans (State.storeA_f _ _ _))
  case ldMa16A | ldhMa8A | ldMcA => exact FlagEffects.keepAll_allows (State.storeA_f _ _ _)
  case ldMa16Sp => exact FlagEffects.keepAll_allows (by simp)
  case push => exact FlagEffects.keepAll_allows (by simp)
  case call | rst => exact FlagEffects.keepAll_allows (State.callTo_f _ _ _)
  case jpCond | jrCond | retCond => exact FlagEffects.keepAll_allows (conditional_f rfl)
  case callCond => exact FlagEffects.keepAll_allows (conditional_f (State.callTo_f _ _ _))
  case pop rr =>
    cases rr
    case af =>
      exact ⟨FlagEffect.computed_allows _ _, FlagEffect.computed_allows _ _, FlagEffect.computed_allows _ _,
        FlagEffect.computed_allows _ _⟩
    all_goals exact FlagEffects.keepAll_allows rfl
  case alu | aluImm => exact aluOp_allows _ _ _
  case inc | dec => exact FlagEffects.allows_setFlags (State.writeR8_f _ _ _) trivial rfl trivial rfl
  case addHl => exact FlagEffects.allows_setFlags rfl rfl rfl trivial trivial
  case ldHlSp | addSp => exact FlagEffects.allows_setFlags rfl rfl rfl trivial trivial
  case rlca | rrca | rla | rra => exact FlagEffects.allows_setFlags rfl rfl rfl rfl trivial
  case daa => exact FlagEffects.allows_setFlags rfl trivial rfl rfl trivial
  case cpl => exact FlagEffects.allows_setFlags rfl rfl rfl rfl rfl
  case scf => exact FlagEffects.allows_setFlags rfl rfl rfl rfl rfl
  case ccf => exact FlagEffects.allows_setFlags rfl rfl rfl rfl trivial
  case rot => exact rotate_allows _ _ _
  case bit => exact FlagEffects.allows_setFlags rfl trivial rfl rfl rfl

theorem form_ne_prefixCB_of_wellFormed {i : Instr} (hw : i.wellFormed = true) : i.form ≠ .prefixCB := by
  intro hf
  simp [Instr.wellFormed, (isPrefix_iff i).2 hf] at hw

/-- Settles O23, form by form: a meaning leaves F or ends with a `SetFlags` whose arguments fit the string. -/
theorem flagsFollowTheDescriptor : Obligations.FlagsFollowTheDescriptor := by
  intro i s t hw h
  rw [exec_eq_familyMeaning] at h
  exact familyMeaning_allows (form_ne_prefixCB_of_wellFormed hw) h

/-! ### Values in range -/

theorem inRange_eq_false_iff (width : Option Nat) (v : Int) :
    inRange width v = false ↔ v < 0 ∨ ∃ w, width = some w ∧ 2 ^ w ≤ v := by
  cases width <;> simp [inRange, imp_iff_not_or]

theorem inRange_byte (v : Int) : inRange (some 8) v = true ↔ 0 ≤ v ∧ v < 256 := by
  simp [inRange]

theorem not_inRange_byte (v : Int) : inRange (some 8) v = false ↔ v < 0 ∨ 256 ≤ v := by
  simp [inRange_eq_false_iff]

/-- A value in range is the number its bits stand for. -/
theorem toNat_ofInt_of_inRange {w : Nat} {v : Int} (h : inRange (some w) v = true) :
    ((BitVec.ofInt w v).toNat : Int) = v := by
  obtain ⟨h0, h1⟩ : 0 ≤ v ∧ v < 2 ^ w := by simpa [inRange] using h
  rw [BitVec.toNat_ofInt, Int.emod_eq_of_lt h0 (by exact_mod_cast h1), Int.toNat_of_nonneg h0]

/-! ### Loads -/

/-- A load of one byte in range before the first step. -/
theorem State.loadBytes_single {s : State} (hs : s.stepped = false) (a : Word) {v : Int}
    (hv : inRange (some 8) v = true) :
    s.loadBytes [(a, v)] = .next (s.setBus (s.bus.load a.toNat (BitVec.ofInt 8 v))) := by
  simp [State.loadBytes, hv, hs]

/-- What a load of fields answers: OutOfRange at a value out of range, else the state with the fields loaded. -/
theorem State.loadFields_cases (s : State) (fields : List (CpuField × Int)) :
    (∃ p ∈ fields, inRange p.1.width p.2 = false ∧ s.loadFields fields = .fault (.outOfRange (.field p.1) p.2)) ∨
    ((∀ p ∈ fields, inRange p.1.width p.2 = true) ∧ ∃ cur, s.loadFields fields =
      .next { s with cpu := fields.foldl (fun c p => c.loadField p.1 p.2) s.cpu, cur := cur }) := by
  cases h : fields.find? (fun p => !inRange p.1.width p.2) with
  | some p =>
    exact .inl ⟨p, List.mem_of_find?_eq_some h, by simpa using List.find?_some h, by simp [State.loadFields, h]⟩
  | none => exact .inr ⟨by simpa using h, _, by simp only [State.loadFields, h]; rfl⟩

/-- A load of one field in range. -/
theorem State.perform_loadCpu_single (s : State) {which : CpuField} {v : Int} (h : inRange which.width v = true) :
    ∃ t, s.perform (.loadCpu [(which, v)]) = .next t ∧ t.cpu = s.cpu.loadField which v ∧ t.bus = s.bus := by
  obtain ⟨p, hp, hr, -⟩ | ⟨-, cur, hl⟩ := s.loadFields_cases [(which, v)]
  · obtain rfl := List.mem_singleton.1 hp
    simp [h] at hr
  · exact ⟨_, hl, rfl, rfl⟩

/-- A cell that a load fills with the bits of the value reads back as the value. -/
theorem State.loadCpu_reads_back (s : State) {which : CpuField} {w : Nat} {v : Int} (cell : Cpu → BitVec w)
    (hw : which.width = some w) (hcell : cell (s.cpu.loadField which v) = BitVec.ofInt w v)
    (hv : inRange (some w) v = true) :
    ∃ t, s.perform (.loadCpu [(which, v)]) = .next t ∧ ((cell t.cpu).toNat : Int) = v := by
  obtain ⟨t, ht, hcpu, -⟩ := s.perform_loadCpu_single (which := which) (v := v) (by rwa [hw])
  exact ⟨t, ht, by rw [hcpu, hcell, toNat_ofInt_of_inRange hv]⟩

/-! ### What a step answers -/

/-- A step completes or faults with UnknownOpcode. -/
theorem step_next_or_unknownOpcode (s : State) :
    (∃ t, step s = .next t) ∨ ∃ r t, step s = .fault (.unknownOpcode r t) := by
  cases hf : s.cpu.fault with
  | some r => exact .inr ⟨r, s, step_of_fault hf⟩
  | none =>
    obtain ⟨-, h⟩ | ⟨-, -, h⟩ | ⟨-, -, n, -, h⟩ | ⟨-, -, -, h⟩ := step_cases hf
    · exact .inl ⟨_, h⟩
    · exact .inl ⟨_, h⟩
    · exact .inl ⟨_, h⟩
    · obtain ⟨-, k⟩ | ⟨-, t, -, k, -⟩ := executeStep_cases s.awake
      · exact .inr ⟨_, _, h.trans k⟩
      · exact .inl ⟨_, h.trans k⟩

/-- A step never faults with OutOfRange. -/
theorem step_ne_outOfRange (s : State) (target : LoadTarget) (v : Int) : step s ≠ .fault (.outOfRange target v) := by
  obtain ⟨t, h⟩ | ⟨r, t, h⟩ := step_next_or_unknownOpcode s <;> simp [h]

/-! ### The clauses of the host's loads -/

/-- A byte out of range refuses the load of bus bytes by a byte out of range. -/
theorem State.loadBus_outOfRange (s : State) {bytes : List (Word × Int)}
    (h : ∃ p ∈ bytes, p.2 < 0 ∨ 256 ≤ p.2) :
    ∃ p ∈ bytes, (p.2 < 0 ∨ 256 ≤ p.2) ∧ s.perform (.loadBus bytes) = .fault (.outOfRange (.busByte p.1) p.2) := by
  simp only [← not_inRange_byte] at h ⊢
  obtain ⟨p, hp, hr⟩ := h
  obtain hfault | ⟨hall, -⟩ | ⟨hall, -⟩ := s.loadBytes_cases bytes
  · exact hfault
  · simp [hall p hp] at hr
  · simp [hall p hp] at hr

/-- Before the first step a byte in range is stored at its address, and nothing else changes. -/
theorem State.loadBus_reads_back {s : State} (hm : Memory.wf s.bus.mem) (hs : s.stepped = false) (a : Word) {v : Int}
    (hv : inRange (some 8) v = true) :
    ∃ t, s.perform (.loadBus [(a, v)]) = .next t ∧ ((Memory.read t.bus.mem a.toNat).toNat : Int) = v ∧
      (∀ b, b ≠ a.toNat → Memory.read t.bus.mem b = Memory.read s.bus.mem b) ∧ t.cpu = s.cpu := by
  refine ⟨_, State.loadBytes_single hs a hv, ?_, fun b hb => Memory.read_write_other _ _ hb, rfl⟩
  simp only [State.setBus_bus, Bus.load, Memory.read_write_same hm, toNat_ofInt_of_inRange hv]

/-- After the first step a load of bytes in range is refused by name. -/
theorem State.loadBus_refused {s : State} (hs : s.stepped = true) {bytes : List (Word × Int)}
    (h : ∀ p ∈ bytes, inRange (some 8) p.2 = true) :
    s.perform (.loadBus bytes) = .refused .busLoadAfterFirstStep := by
  obtain ⟨p, hp, hr, -⟩ | ⟨-, -, hl⟩ | ⟨-, hs', -⟩ := s.loadBytes_cases bytes
  · simp [h p hp] at hr
  · exact hl
  · simp [hs] at hs'

/-- A step taken from a state without a fault sets the first-step mark. -/
theorem step_sets_stepped {s : State} (hf : s.cpu.fault = none) :
    (∃ t, step s = .next t ∧ t.stepped = true) ∨ ∃ r t, step s = .fault (.unknownOpcode r t) ∧ t.stepped = true := by
  obtain ⟨hnext, hfault⟩ := step_stepped hf
  obtain ⟨t, h⟩ | ⟨r, t, h⟩ := step_next_or_unknownOpcode s
  · exact .inl ⟨t, h, hnext t h⟩
  · exact .inr ⟨r, t, h, hfault r t h⟩

/-- A value out of its field's range refuses the load of fields by such a value. -/
theorem State.loadCpu_outOfRange (s : State) {fields : List (CpuField × Int)}
    (h : ∃ p ∈ fields, p.2 < 0 ∨ ∃ w, p.1.width = some w ∧ 2 ^ w ≤ p.2) :
    ∃ p ∈ fields, (p.2 < 0 ∨ ∃ w, p.1.width = some w ∧ 2 ^ w ≤ p.2) ∧
      s.perform (.loadCpu fields) = .fault (.outOfRange (.field p.1) p.2) := by
  simp only [← inRange_eq_false_iff] at h ⊢
  obtain ⟨p, hp, hr⟩ := h
  obtain hfault | ⟨hall, -⟩ := s.loadFields_cases fields
  · exact hfault
  · simp [hall p hp] at hr

/-- A load of A reads back and changes nothing else of the CPU state and the bus. -/
theorem State.loadCpu_a (s : State) {v : Int} (hv : inRange (some 8) v = true) :
    ∃ t, s.perform (.loadCpu [(.a, v)]) = .next t ∧ (t.cpu.a.toNat : Int) = v ∧
      t.cpu = { s.cpu with a := t.cpu.a } ∧ t.bus = s.bus := by
  obtain ⟨t, ht, hcpu, hbus⟩ := s.perform_loadCpu_single (which := .a) hv
  refine ⟨t, ht, ?_, by rw [hcpu]; rfl, hbus⟩
  rw [hcpu]
  exact toNat_ofInt_of_inRange hv

/-- Settles O20: the cases of a load of bytes and of fields, the read after a write, and what a step answers. -/
theorem outOfRangeLoads : Obligations.OutOfRangeLoads := by
  intro s hm
  refine ⟨fun _ h => s.loadBus_outOfRange h,
    fun a v hs h0 h1 => State.loadBus_reads_back hm hs a ((inRange_byte v).2 ⟨h0, h1⟩),
    fun _ hs h => State.loadBus_refused hs fun p hp => (inRange_byte p.2).2 (h p hp),
    step_sets_stepped, ⟨s.hostReset, rfl, rfl⟩, fun _ h => s.loadCpu_outOfRange h, fun v h0 h1 => ?_,
    fun v h0 h1 => ?_, step_ne_outOfRange s⟩
  · have hv : inRange (some 8) v = true := (inRange_byte v).2 ⟨h0, h1⟩
    exact ⟨s.loadCpu_a hv, s.loadCpu_reads_back Cpu.ir rfl rfl hv, s.loadCpu_reads_back Cpu.ie rfl rfl hv⟩
  · have hv : inRange (some 16) v = true := by simp [inRange, h0, h1]
    exact ⟨s.loadCpu_reads_back Cpu.pc rfl rfl hv, s.loadCpu_reads_back Cpu.sp rfl rfl hv,
      s.loadCpu_reads_back Cpu.bc rfl rfl hv, s.loadCpu_reads_back Cpu.de rfl rfl hv,
      s.loadCpu_reads_back Cpu.hl rfl rfl hv, s.loadCpu_reads_back Cpu.operandValue rfl rfl hv⟩

end Sys2Proof.Machine
end

section
/-! PROOFS. The statements of spec/10_state.md: what a step can end in (R70), the invariant between two steps (R53,
R61, R65), PREFIXED and IR (R66, R67), CYCLES and the snapshot (R69), the reset values (R73), F[3:0] and the register
halves (R53, R54). -/

namespace Sys2Proof.Machine

/-! ### How a completed step ends -/

/-- The phases before the end of a step from `s` made it a step of kind `k`, left the state `r` and count `n`, to which
`State.finish` adds the 4 of a wake. -/
inductive StepEnds (s : State) : StepKind → State → Nat → Prop
  | stopped : StepEnds s .stopped s.beginStep 4
  | halted : StepEnds s .halted s.beginStep.leaveStop 4
  | interrupt (n : Fin 5) (hime : s.cpu.ime = true) : StepEnds s (.interrupt n) (s.awake.takeInterrupt n) 20
  | instruction {i : Instr} {r : State} (hi : i = s.awake.fetchedInstr) (hw : i.wellFormed = true)
      (hexec : exec i (s.awake.ready i) = .next r) :
      StepEnds s (.instruction i) r (selectCycles (Form.cycles i.form) r.cur.taken)

/-- Only a core with IME = 1 dispatches. -/
theorem State.ime_of_dispatchTarget {s : State} {n : Fin 5} (h : s.dispatchTarget = some n) : s.cpu.ime = true := by
  unfold State.dispatchTarget at h
  split at h
  · assumption
  · cases h

/-- A next state is what `State.finish` makes of what the phases of the step left. -/
theorem step_ends {s t : State} (hf : s.cpu.fault = none) (h : step s = .next t) :
    ∃ k r n, StepEnds s k r n ∧ t = r.finish k n := by
  obtain ⟨-, rfl⟩ | ⟨-, -, rfl⟩ | ⟨-, -, n, hn, rfl⟩ | ⟨-, -, -, i, r, hi, hw, hr, -, rfl⟩ := step_next_cases hf h
  · exact ⟨_, _, _, .stopped, rfl⟩
  · exact ⟨_, _, _, .halted, rfl⟩
  · exact ⟨_, _, _, .interrupt n (by simpa using State.ime_of_dispatchTarget hn), rfl⟩
  · exact ⟨_, _, _, .instruction hi hw hr, rfl⟩

/-- A well-formed row is not PREFIX CB. -/
theorem isPrefix_of_wellFormed {i : Instr} (hw : i.wellFormed = true) : i.isPrefix = false := by
  rw [Instr.wellFormed, Bool.and_eq_true, Bool.not_eq_true'] at hw
  exact hw.1

/-- A well-formed row is not an invalid one. -/
theorem form_ne_invalid_of_wellFormed {i : Instr} (hw : i.wellFormed = true) (op : Byte) : i.form ≠ .invalid op := by
  intro hf
  simp [Instr.wellFormed, (isInvalid_iff i).2 ⟨op, hf⟩] at hw

/-- Before the acknowledge a dispatch keeps what an instruction keeps. -/
theorem kept_interruptEntry (s : State) (n : Fin 5) :
    Kept s ((((s.setIme false).setImeScheduled false).push16 .int s.cpu.pc).setPc (vector n)) := by
  have hclear : Kept s ((s.setIme false).setImeScheduled false) := .of_rfl rfl rfl id
  exact hclear.trans (kept_closed.callTo _ .int (vector n))

/-! ### What every step carries to its end -/

/-- What the phases of a step from `s` have kept in `u`: FAULT, CYCLES, the parameters and the bus map; BEFORE is the
state of step entry, F[3:0] stays 0 and memory stays canonical. -/
structure Carried (s u : State) : Prop where
  fault : u.cpu.fault = s.cpu.fault
  cycles : u.cpu.cycles = s.cpu.cycles
  params : u.params = s.params
  regions : u.bus.regions = s.bus.regions
  irqFromIf : u.bus.irqFromIf = s.bus.irqFromIf
  before : u.cur.before = s.cpu
  low : s.cpu.f.extractLsb' 0 4 = 0#4 → u.cpu.f.extractLsb' 0 4 = 0#4
  wf : Memory.wf s.bus.mem → Memory.wf u.bus.mem

theorem Carried.trans_kept {s u v : State} (h : Carried s u) (k : Kept u v) : Carried s v where
  fault := k.fault.trans h.fault
  cycles := k.cycles.trans h.cycles
  params := k.params.trans h.params
  regions := k.regions.trans h.regions
  irqFromIf := k.irqFromIf.trans h.irqFromIf
  before := by rw [k.latch]; exact h.before
  low := k.low ∘ h.low
  wf := k.wf ∘ h.wf

theorem carried_beginStep (s : State) : Carried s s.beginStep :=
  ⟨rfl, rfl, rfl, by simp, by simp, rfl, id, by simp⟩

theorem carried_leaveStop (s : State) : Carried s s.beginStep.leaveStop :=
  (carried_beginStep s).trans_kept (.of_rfl rfl rfl id)

theorem carried_awake (s : State) : Carried s s.awake :=
  ⟨by simp, by simp, by simp, by simp, by simp, by simp, by simp, by simp⟩

theorem carried_takeInterrupt (s : State) (n : Fin 5) : Carried s (s.awake.takeInterrupt n) :=
  have h := (carried_awake s).trans_kept (kept_interruptEntry s.awake n)
  ⟨h.fault, h.cycles, h.params, h.regions, h.irqFromIf, h.before, h.low, h.wf⟩

theorem carried_ready (s : State) (i : Instr) : Carried s (s.awake.ready i) := by
  rw [State.ready_eq]
  exact ⟨(carried_awake s).fault, (carried_awake s).cycles, (carried_awake s).params, (carried_awake s).regions,
    (carried_awake s).irqFromIf, (carried_awake s).before, (carried_awake s).low, (carried_awake s).wf⟩

theorem StepEnds.carried {s r : State} {k : StepKind} {n : Nat} (h : StepEnds s k r n) : Carried s r := by
  cases h with
  | stopped => exact carried_beginStep s
  | halted => exact carried_leaveStop s
  | interrupt n => exact carried_takeInterrupt s n
  | instruction _ hw hexec => exact (carried_ready s _).trans_kept (kept_exec (isPrefix_of_wellFormed hw) hexec)

/-- The state of a fault: that of step entry but PC, HALT_BUG_ARMED and FAULT, which holds the record; no snapshot; the
parameters and the bus map as before (spec/60_exceptions.md R551). -/
theorem step_fault_state {s t : State} {r : FaultRecord} (hf : s.cpu.fault = none)
    (h : step s = .fault (.unknownOpcode r t)) :
    t.cpu = { s.cpu with pc := t.cpu.pc, haltBugArmed := t.cpu.haltBugArmed, fault := some r } ∧ t.snapshot = none ∧
      t.params = s.params ∧ t.bus.regions = s.bus.regions ∧ t.bus.irqFromIf = s.bus.irqFromIf := by
  obtain ⟨-, -, -, -, hraise⟩ := step_fault_cases hf h
  have hc := carried_ready s s.awake.fetchedInstr
  cases hraise
  refine ⟨?_, rfl, hc.params, hc.regions, hc.irqFromIf⟩
  simp only [State.faultCpu, hc.before]

/-! ### What a step can end in -/

/-- Settles O11: a completed step ends with `State.finish`, a faulting one with the fault state. -/
theorem stepOutcomes : Obligations.StepOutcomes := by
  refine fun s => ⟨fun r => step_of_fault, fun hf => ?_⟩
  obtain ⟨t, h⟩ | ⟨r, t, h⟩ := step_next_or_unknownOpcode s
  · obtain ⟨k, u, n, hu, rfl⟩ := step_ends hf h
    have hc := hu.carried
    exact .inl ⟨_, _, h, hc.fault.trans hf, rfl, hc.params, by simp [hc.regions], by simp [hc.irqFromIf]⟩
  · obtain ⟨hcpu, hsnap, hmap⟩ := step_fault_state hf h
    exact .inr ⟨r, t, h, by rw [hcpu], hsnap, hmap⟩

/-! ### The invariant -/

/-- The part of `State.Inv` that speaks of the control bits. -/
structure ControlsAgree (s : State) : Prop where
  notBoth : ¬(s.cpu.halted = true ∧ s.cpu.stopped = true)
  armed : s.cpu.haltBugArmed = true → s.params.haltBug = true ∧ s.cpu.ime = false ∧ s.cpu.imeScheduled = false ∧
    s.cpu.halted = false ∧ s.cpu.stopped = false
  scheduled : s.cpu.imeScheduled = true → s.cpu.halted = false ∧ s.cpu.stopped = false

/-- The control bits of a core that has just fetched: not halted, not stopped, no halt bug armed, no IME scheduled. -/
structure ControlsClear (s : State) : Prop where
  halted : s.cpu.halted = false
  stopped : s.cpu.stopped = false
  haltBugArmed : s.cpu.haltBugArmed = false
  imeScheduled : s.cpu.imeScheduled = false

theorem controlsClear_ready (s : State) (i : Instr) : ControlsClear (s.awake.ready i) := by
  rw [State.ready_eq]
  constructor <;> simp

/-- HALT halts, does nothing, or arms the halt bug, which takes IME = 0 and HALT_BUG (spec/47_system.md R480). -/
theorem execHalt_cases {s t : State} (h : execHalt s = .next t) :
    t = s.setHalted true ∨ t = s ∨
      (s.cpu.ime = false ∧ s.params.haltBug = true ∧ t = s.setHaltBugArmed true) := by
  unfold execHalt at h
  split at h
  · cases h
    exact .inl rfl
  · split_ifs at h with hime hbug <;> cases h
    · exact .inr (.inl rfl)
    · exact .inr (.inr ⟨by simpa using hime, hbug, rfl⟩)
    · exact .inr (.inl rfl)

/-- At most one control bit is set by an instruction that finds them clear, and the halt bug on its condition only. -/
theorem controlsAgree_exec {i : Instr} {s t : State} (hw : i.wellFormed = true) (hs : ControlsClear s)
    (h : exec i s = .next t) : ControlsAgree t := by
  obtain ⟨hh, hst, ha, hi⟩ := hs
  by_cases hsys : Form.isSystem i.form = false
  · have k := steady_exec hsys h
    constructor <;> simp [k.halted, k.stopped, k.haltBugArmed, k.imeScheduled, hh, ha, hi]
  rw [exec_eq_familyMeaning] at h
  have hp := form_ne_prefixCB_of_wellFormed hw
  generalize i.form = f at h hp hsys
  cases f <;> try exact absurd rfl hsys
  case halt =>
    obtain rfl | rfl | ⟨hime, hbug, rfl⟩ := execHalt_cases h <;> constructor <;> simp [*]
  case prefixCB => exact absurd rfl hp
  case invalid => cases h
  case stop | di | ei | reti =>
    cases h
    constructor <;> simp [State.returnFromInterrupt, hh, hst, ha, hi]

/-- A dispatch needs IME = 1, so no halt bug is armed when it is taken. -/
theorem controlsAgree_takeInterrupt {s : State} (hs : ControlsAgree s) (hime : s.cpu.ime = true) (n : Fin 5) :
    ControlsAgree (s.awake.takeInterrupt n) := by
  have ha : s.cpu.haltBugArmed = false := by
    by_contra harmed
    obtain ⟨-, hime', -⟩ := hs.armed (by simpa using harmed)
    simp [hime] at hime'
  constructor <;> simp [State.takeInterrupt, ha]

/-- The control bits agree at the end of every step that began so. -/
theorem StepEnds.controlsAgree {s r : State} {k : StepKind} {n : Nat} (h : StepEnds s k r n) (hs : ControlsAgree s) :
    ControlsAgree r := by
  cases h with
  | stopped => exact ⟨hs.notBoth, hs.armed, hs.scheduled⟩
  | halted =>
    refine ⟨by simp, fun harmed => ?_, fun hsched => ⟨(hs.scheduled hsched).1, rfl⟩⟩
    obtain ⟨hbug, hime, hsched, hhalt, -⟩ := hs.armed harmed
    exact ⟨hbug, hime, hsched, hhalt, rfl⟩
  | interrupt n hime => exact controlsAgree_takeInterrupt hs hime n
  | instruction _ hw hexec => exact controlsAgree_exec hw (controlsClear_ready s _) hexec

/-- Settles O16: `Carried` keeps the F, memory and fault clauses, `ControlsAgree` the control bits, and `State.finish`
brings the latch to rest. -/
theorem stepKeepsInv : Obligations.StepKeepsInv := by
  intro s t hs h
  obtain ⟨hlow, hwf, hboth, harmed, hsched, hf, -⟩ := hs
  obtain ⟨k, r, n, hr, rfl⟩ := step_ends hf h
  have hc := hr.carried
  obtain ⟨hboth', harmed', hsched'⟩ := hr.controlsAgree ⟨hboth, harmed, hsched⟩
  exact ⟨hc.low hlow, by simpa using hc.wf hwf, hboth', harmed', hsched', hc.fault.trans hf, rfl⟩

/-! ### PREFIXED and IR -/

/-- An instruction step ends with the PREFIXED and IR that its fetch noted. -/
theorem StepEnds.instruction_ir {s r : State} {i : Instr} {n : Nat} (h : StepEnds s (.instruction i) r n) :
    r.cpu.prefixed = decide (s.awake.window.1 = 0xCB#8) ∧ r.cpu.ir = s.awake.fetchedOpcode := by
  cases h with
  | instruction _ hw hexec =>
    have k := kept_exec (isPrefix_of_wellFormed hw) hexec
    rw [k.prefixed, k.ir, State.ready_eq]
    exact ⟨rfl, rfl⟩

/-- A step of any other kind ends with the PREFIXED, IR and OPERAND_VALUE it began with. -/
theorem StepEnds.other_ir {s r : State} {k : StepKind} {n : Nat} (h : StepEnds s k r n)
    (hk : ∀ i, k ≠ .instruction i) :
    r.cpu.prefixed = s.cpu.prefixed ∧ r.cpu.ir = s.cpu.ir ∧ r.cpu.operandValue = s.cpu.operandValue := by
  cases h with
  | stopped => exact ⟨rfl, rfl, rfl⟩
  | halted => exact ⟨rfl, rfl, rfl⟩
  | interrupt n =>
    have k := kept_interruptEntry s.awake n
    exact ⟨k.prefixed.trans (by simp), k.ir.trans (by simp), k.operandValue.trans (by simp)⟩
  | @instruction i => exact absurd rfl (hk i)

/-- Settles O13: by the kind of the step, and by the fault state. -/
theorem prefixedAndIr : Obligations.PrefixedAndIr := by
  rintro s u hf rfl
  refine ⟨fun t i h hkind => ?_, fun t k h hkind hk => ?_, fun r t h => ?_⟩
  · obtain ⟨k, r, n, hr, rfl⟩ := step_ends hf h
    obtain rfl : k = .instruction i := Option.some.inj hkind
    exact hr.instruction_ir
  · obtain ⟨k', r, n, hr, rfl⟩ := step_ends hf h
    obtain rfl : k' = k := Option.some.inj hkind
    exact hr.other_ir hk
  · obtain ⟨hcpu, -⟩ := step_fault_state hf h
    rw [hcpu]
    exact ⟨rfl, rfl, rfl⟩

/-! ### CYCLES and the snapshot -/

/-- A condition reads F only. -/
theorem State.cond_congr {s t : State} (hf : t.cpu.f = s.cpu.f) : t.cond = s.cond := by
  funext cc
  cases cc <;> simp only [State.cond, State.flagZ, State.flagC, hf]

/-- The latch in which an instruction executes but FETCH_ADDR: nothing written or acknowledged, the 4 of a wake, taken
unless a condition says otherwise. -/
theorem ready_latch (s : State) (i : Instr) :
    (s.awake.ready i).cur.irqAck = 0#5 ∧ (s.awake.ready i).cur.extra = (if s.cpu.halted then 4 else 0) ∧
      (s.awake.ready i).cur.taken = true := by
  simp [State.ready_eq]

/-- An instruction step acknowledges nothing, adds the 4 of a wake, and reports `taken` exactly when the condition of
its row, read in F at step entry, held or there is none. -/
theorem StepEnds.instruction_latch {s r : State} {i : Instr} {n : Nat} (h : StepEnds s (.instruction i) r n) :
    r.cur.irqAck = 0#5 ∧ r.cur.extra = (if s.cpu.halted then 4 else 0) ∧
      r.cur.taken = ((Form.condition i.form).map s.cond).getD true := by
  cases h with
  | instruction _ hw hexec =>
    have hp := isPrefix_of_wellFormed hw
    obtain ⟨hack, hextra, htaken⟩ := ready_latch s i
    have hcond : (s.awake.ready i).cond = s.cond := State.cond_congr (by simp [State.ready_eq])
    refine ⟨?_, ?_, ?_⟩
    · rw [(kept_exec hp hexec).latch]; exact hack
    · rw [(kept_exec hp hexec).latch]; exact hextra
    · rw [exec_taken hp hexec, hcond, htaken]

/-- An instruction step counts the number R612 gives its row, the one its descriptor selects. -/
theorem StepEnds.instruction_count {s r : State} {i : Instr} {n : Nat} (h : StepEnds s (.instruction i) r n) :
    reportedCount i.form s.cond = some n ∧
      n = selectCycles (instrDescriptor i).cycles (((Form.condition i.form).map s.cond).getD true) := by
  obtain ⟨-, -, htaken⟩ := h.instruction_latch
  cases h with
  | instruction _ hw hexec =>
    rw [htaken]
    exact ⟨reportedCount_eq _ _ (form_ne_prefixCB_of_wellFormed hw) (form_ne_invalid_of_wellFormed hw), rfl⟩

/-- A dispatch acknowledges its source and adds the 4 of a wake. -/
theorem takeInterrupt_latch (s : State) (n : Fin 5) :
    (s.awake.takeInterrupt n).cur.irqAck = 1#5 <<< n.val ∧
      (s.awake.takeInterrupt n).cur.extra = if s.cpu.halted then 4 else 0 := by
  refine ⟨rfl, ?_⟩
  have hlatch := congrArg StepLatch.extra (kept_interruptEntry s.awake n).latch
  exact hlatch.trans (by simp)

/-- Settles O15: the snapshot is that of `State.finish`, its count by the kind of the step. -/
theorem cyclesAndSnapshot : Obligations.CyclesAndSnapshot := by
  refine fun s hf => ⟨fun t h => ?_, fun r t h => ?_⟩
  · obtain ⟨k, r, n, hr, rfl⟩ := step_ends hf h
    have hc := hr.carried
    refine ⟨_, rfl, hc.before, rfl, by simp [hc.cycles], ?_⟩
    cases k with
    | stopped | halted =>
      cases hr
      exact ⟨rfl, rfl⟩
    | interrupt m =>
      cases hr
      obtain ⟨hack, hextra⟩ := takeInterrupt_latch s m
      exact ⟨hack, congrArg (20 + ·) hextra⟩
    | instruction i =>
      obtain ⟨hack, hextra, -⟩ := hr.instruction_latch
      obtain ⟨hcount, hsel⟩ := hr.instruction_count
      exact ⟨hack, n, hcount, congrArg (n + ·) hextra, hsel⟩
  · obtain ⟨hcpu, -⟩ := step_fault_state hf h
    rw [hcpu]

/-! ### Reset -/

/-- Settles O17: the fixed state of the reset satisfies each clause. -/
theorem resetHasInv : Obligations.ResetHasInv :=
  ⟨rfl, reset_mem_wf, by decide, nofun, nofun, rfl, rfl⟩

/-- The drawn F of PowerOn has 0 in bits 3 to 0. -/
theorem append_zero_low (v : BitVec 4) : (v ++ 0b0000#4).extractLsb' 0 4 = 0#4 := by
  revert v
  decide

/-- Settles O18: both profiles by definition, F[3:0] of PowerOn by `append_zero_low`. -/
theorem resetValues : Obligations.ResetValues :=
  ⟨fun _ => rfl, fun _ => ⟨_, _, _, _, _, _, _, append_zero_low _, rfl⟩, rfl, rfl⟩

/-! ### F[3:0] and the register halves -/

/-- Masking F keeps bits 7 to 4. -/
theorem masked_high (v : Byte) : (v &&& 0xF0#8).extractLsb' 4 4 = v.extractLsb' 4 4 := by
  ext i hi
  interval_cases i <;> simp

/-- Settles O24: the mask of F, and the halves of the pairs by definition. -/
theorem lowNibbleOfFAndRegisterHalves : Obligations.LowNibbleOfFAndRegisterHalves := by
  intro s
  refine ⟨fun v => ⟨masked_low v, masked_high v⟩, masked_low _, ⟨rfl, rfl, rfl, rfl, rfl, rfl⟩,
    fun r v hr => s.writeR8_writes hr v, fun v => ⟨⟨rfl, rfl⟩, ⟨rfl, rfl⟩, ⟨rfl, rfl⟩⟩⟩

end Sys2Proof.Machine
end

section
/-! PROOFS. The statements of spec/20_memory.md: the write log (R123, R126), the byte of the bus at 0xFFFF (R121,
R133), the byte order of a store (R128), the kinds of address of a bus (R132), the arbiter (R121 to R123) and the
memory map of DMGBus (R134). -/

namespace Sys2Proof.Machine

/-! ### What an instruction does to memory

An instruction reads memory through the arbiter, then writes registers and makes at most one `MemWrite`. So on two
buses that read alike it makes the same store and leaves the same state but for the bus. -/

/-- Memory as the core sees it and the write log are the same: the bus, IE, the log and the draw counter. -/
structure SameMemory (s t : State) : Prop where
  bus : t.bus = s.bus
  ie : t.cpu.ie = s.cpu.ie
  writes : t.cur.writes = s.cur.writes
  draws : t.draws = s.draws

theorem SameMemory.trans {s t u : State} (h : SameMemory s t) (k : SameMemory t u) : SameMemory s u :=
  ⟨k.bus.trans h.bus, k.ie.trans h.ie, k.writes.trans h.writes, k.draws.trans h.draws⟩

theorem SameMemory.setBus {s t : State} (h : SameMemory s t) (b : Bus) : SameMemory (s.setBus b) (t.setBus b) :=
  ⟨rfl, h.ie, h.writes, h.draws⟩

theorem SameMemory.storeByte {s t : State} (h : SameMemory s t) (a : Word) (v : Byte) :
    SameMemory (s.storeByte a v) (t.storeByte a v) where
  bus := by by_cases ha : a = 0xFFFF#16 <;> simp [State.storeByte_def, ha, h.bus]
  ie := by simp [State.ieAfterByte, h.ie]
  writes := by simp [h.writes]
  draws := by simp [h.draws]

theorem SameMemory.storeBytes {s t : State} (h : SameMemory s t) (a : Word) (bytes : List Byte) :
    SameMemory (s.storeBytes a bytes) (t.storeBytes a bytes) := by
  induction bytes generalizing s t a with
  | nil => exact h
  | cons v vs ih => exact ih (h.storeByte a v) _

/-- The state after the store that a record describes, if there is one. -/
def State.afterStore (s : State) : Option WriteRecord → State
  | none => s
  | some r => s.memWrite r.label r.address r.bytes

theorem SameMemory.afterStore {s t : State} (h : SameMemory s t) (w : Option WriteRecord) :
    SameMemory (s.afterStore w) (t.afterStore w) := by
  cases w with
  | none => exact h
  | some r =>
    have hlog : SameMemory (s.logWrite r) (t.logWrite r) :=
      ⟨h.bus, h.ie, congrArg (· ++ [r]) h.writes, h.draws⟩
    exact hlog.storeBytes _ _

/-- A store leaves the same state on every bus, the bus apart. -/
theorem State.storeBytes_setBus (s : State) (b : Bus) (a : Word) (bytes : List Byte) :
    (s.setBus b).storeBytes a bytes = (s.storeBytes a bytes).setBus ((s.setBus b).storeBytes a bytes).bus := by
  induction bytes generalizing s b a with
  | nil => rfl
  | cons v vs ih =>
    simp only [State.storeBytes, State.storeByte]
    split
    · exact ih (s.setIe v) b _
    · exact ih (s.setBus (s.bus.write a.toNat v)) (b.write a.toNat v) _

/-- `t` and `t'` come from `s` and from `s` on the bus `b` by one and the same store, if any, and the same writes of
registers. -/
def StoresAlike (s : State) (b : Bus) (t t' : State) : Prop :=
  ∃ w, SameMemory (s.afterStore w) t ∧ t' = t.setBus ((s.setBus b).afterStore w).bus

/-- An update that leaves memory and the log and does not look at the bus. -/
structure RegisterUpdate (f : State → State) : Prop where
  same : ∀ s, SameMemory s (f s)
  setBus : ∀ s b, f (s.setBus b) = (f s).setBus b

section StoresAlike

variable {s t t' : State} {b : Bus}

/-- Writes of registers only. -/
theorem StoresAlike.registers (h : SameMemory s t := by exact ⟨rfl, rfl, rfl, rfl⟩) (h' : t' = t.setBus b := by rfl) :
    StoresAlike s b t t' :=
  ⟨none, h, h'⟩

theorem StoresAlike.memWrite (label : WriteLabel) (a : Word) (bytes : List Byte) :
    StoresAlike s b (s.memWrite label a bytes) ((s.setBus b).memWrite label a bytes) :=
  ⟨some ⟨label, a, bytes⟩, ⟨rfl, rfl, rfl, rfl⟩, State.storeBytes_setBus (s.logWrite ⟨label, a, bytes⟩) b a bytes⟩

/-- A write of registers after the store. -/
theorem StoresAlike.andThen (h : StoresAlike s b t t') (f : State → State)
    (hf : RegisterUpdate f := by exact ⟨fun _ => ⟨rfl, rfl, rfl, rfl⟩, fun _ _ => rfl⟩) :
    StoresAlike s b (f t) (f t') := by
  obtain ⟨w, hw, rfl⟩ := h
  exact ⟨w, hw.trans (hf.same t), hf.setBus _ _⟩

/-- A write of registers before the store. -/
theorem StoresAlike.after {u : State} (h : StoresAlike u b t t')
    (hu : SameMemory s u := by exact ⟨rfl, rfl, rfl, rfl⟩) : StoresAlike s b t t' := by
  obtain ⟨w, hw, rfl⟩ := h
  exact ⟨w, (hu.afterStore w).trans hw, by rw [((hu.setBus b).afterStore w).bus]⟩

theorem StoresAlike.writeR8 (r : R8) (v : Byte) :
    StoresAlike s b (s.writeR8 r v) ((s.setBus b).writeR8 r v) := by
  cases r
  case mHL => exact .memWrite _ _ _
  all_goals exact .registers

theorem StoresAlike.aluOp (op : AluOp) (v : Byte) : StoresAlike s b (s.aluOp op v) ((s.setBus b).aluOp op v) := by
  cases op <;> exact .registers

theorem StoresAlike.push16 (label : WriteLabel) (v : Word) :
    StoresAlike s b (s.push16 label v) ((s.setBus b).push16 label v) :=
  .after (u := s.setSp (s.cpu.sp - 2#16)) (.memWrite _ _ _)

theorem StoresAlike.callTo (label : WriteLabel) (target : Word) :
    StoresAlike s b (s.callTo label target) ((s.setBus b).callTo label target) :=
  (StoresAlike.push16 label s.cpu.pc).andThen (State.setPc · target)

theorem StoresAlike.conditional {c : Prop} [Decidable c] (h : StoresAlike s b t t') :
    StoresAlike s b (if c then t.setTaken true else s.setTaken false)
      (if c then t'.setTaken true else (s.setBus b).setTaken false) := by
  split
  · exact h.andThen (State.setTaken · true)
  · exact .registers

end StoresAlike

theorem registerUpdate_stepPointer (p : R16Mem) : RegisterUpdate (State.stepPointer · p) := by
  constructor <;> intros <;> cases p <;> constructor <;> rfl

/-! ### Every form does so -/

section Forms

variable {s : State} {b : Bus} (hr : ReadsSame s (s.setBus b))
include hr

theorem State.readR8_setBus (r : R8) : (s.setBus b).readR8 r = s.readR8 r := by
  cases r
  case mHL => exact hr _
  all_goals rfl

theorem State.loadA_setBus (a : Word) : (s.setBus b).loadA a = (s.loadA a).setBus b := by
  simp only [State.loadA, hr a]
  rfl

theorem State.stackTop_setBus : (s.setBus b).stackTop = s.stackTop :=
  congrArg₂ Word.ofBytes (hr _) (hr _)

theorem StoresAlike.returnPop : StoresAlike s b s.returnPop (s.setBus b).returnPop := by
  simp only [State.returnPop, State.stackTop_setBus hr]
  exact .registers

omit hr in
theorem execHalt_storesAlike {t : State} (h : execHalt s = .next t) :
    ∃ t', execHalt (s.setBus b) = .next t' ∧ StoresAlike s b t t' := by
  have hl : (s.setBus b).lowestPending = s.lowestPending := rfl
  simp only [execHalt, hl] at h ⊢
  split at h
  · cases h
    exact ⟨_, rfl, .registers⟩
  · split_ifs at h with hime hbug <;> cases h
    · exact ⟨_, if_pos hime, .registers⟩
    · exact ⟨_, (if_neg hime).trans (if_pos hbug), .registers⟩
    · exact ⟨_, (if_neg hime).trans (if_neg hbug), .registers⟩

theorem familyMeaning_storesAlike {f : Form} {t : State} (hp : f ≠ .prefixCB) (h : familyMeaning f s = .next t) :
    ∃ t', familyMeaning f (s.setBus b) = .next t' ∧ StoresAlike s b t t' := by
  cases f
  case prefixCB => exact absurd rfl hp
  case halt => exact execHalt_storesAlike h
  case invalid => cases h
  all_goals
    cases h
    refine ⟨_, rfl, ?_⟩
  case nop | stop | di | ei | jp | jpHL | jr | ldSpHl | ldHlSp | addHl | addSp | rlca | rrca | rla | rra | daa | cpl |
      scf | ccf =>
    exact .registers
  case ld r r' =>
    rw [State.readR8_setBus hr]
    exact .writeR8 r _
  case ldImm => exact .writeR8 _ _
  case ldAMa16 | ldhAMa8 | ldAMc =>
    rw [State.loadA_setBus hr]
    exact .registers
  case ldAInd p =>
    rw [State.loadA_setBus hr]
    exact .andThen .registers _ (registerUpdate_stepPointer p)
  case ldIndA p => exact .andThen (.memWrite _ _ _) _ (registerUpdate_stepPointer p)
  case ldMa16A | ldhMa8A | ldMcA | ldMa16Sp => exact .memWrite _ _ _
  case ld16 rr _ | inc16 rr | dec16 rr => cases rr <;> exact .registers
  case push rr => exact .push16 _ _
  case pop rr =>
    rw [State.stackTop_setBus hr]
    cases rr <;> exact .registers
  case alu =>
    rw [State.readR8_setBus hr]
    exact .aluOp _ _
  case aluImm => exact .aluOp _ _
  case inc r | dec r =>
    rw [State.readR8_setBus hr]
    exact .andThen (.writeR8 r _) (State.setFlags · _ _ _ _)
  case jpCond | jrCond => exact .conditional .registers
  case call | rst => exact .callTo _ _
  case callCond => exact .conditional (.callTo _ _)
  case ret => exact .returnPop hr
  case retCond => exact .conditional (.returnPop hr)
  case reti =>
    simp only [State.returnFromInterrupt, State.stackTop_setBus hr]
    exact .registers
  case rot op r =>
    rw [State.readR8_setBus hr]
    exact .andThen (.writeR8 r _) (State.setFlags · _ _ _ _)
  case bit =>
    rw [State.readR8_setBus hr]
    exact .registers
  case res | set =>
    rw [State.readR8_setBus hr]
    exact .writeR8 _ _

omit hr in
/-- PREFIX CB runs the row of the byte at PC (spec/40_engine.md R238). -/
theorem familyMeaning_prefixCB (s : State) : familyMeaning .prefixCB s =
    familyMeaning (decodeCB (s.memRead s.cpu.pc)).form (s.fetch8.2.noteOpcode true (s.memRead s.cpu.pc)) :=
  (exec_decodeCB _ _).symm.trans (exec_eq_familyMeaning _ _)

/-- Every row does so, PREFIX CB by the row of the byte at PC. -/
theorem exec_storesAlike {i : Instr} {t : State} (h : exec i s = .next t) :
    ∃ t', exec i (s.setBus b) = .next t' ∧ StoresAlike s b t t' := by
  rw [exec_eq_familyMeaning] at h ⊢
  by_cases hp : i.form = .prefixCB
  · have hcb : (decodeCB (s.memRead s.cpu.pc)).form ≠ .prefixCB :=
      form_ne_prefixCB_of_wellFormed (encode_decodeCB _).2.2
    have hop : (s.setBus b).memRead (s.setBus b).cpu.pc = s.memRead s.cpu.pc := hr _
    rw [hp, familyMeaning_prefixCB] at h ⊢
    rw [hop]
    obtain ⟨t', ht', hs⟩ := familyMeaning_storesAlike (s := s.fetch8.2.noteOpcode true _) (b := b) hr hcb h
    exact ⟨t', ht', hs.after⟩
  · exact familyMeaning_storesAlike hr hp h

end Forms

/-! ### The write log -/

/-- A store leaves every byte whose storage it does not name. -/
theorem State.memRead_storeBytes_other {s : State} {a b : Word} {bytes : List Byte}
    (h : ∀ k < bytes.length, ¬ s.sharesStorage (a + BitVec.ofNat 16 k) b) :
    (s.storeBytes a bytes).memRead b = s.memRead b := by
  induction bytes generalizing s a with
  | nil => rfl
  | cons v vs ih =>
    have hfirst : ¬ s.sharesStorage a b := by simpa using h 0 (by simp)
    refine (ih fun k hk => ?_).trans (State.memRead_storeByte_other v hfirst)
    have hnext : ¬ s.sharesStorage (a + BitVec.ofNat 16 (k + 1)) b := h (k + 1) (by simpa using hk)
    have haddr : a + 1#16 + BitVec.ofNat 16 k = a + BitVec.ofNat 16 (k + 1) := by
      rw [BitVec.ofNat_add, BitVec.add_assoc, BitVec.add_comm 1#16]
    simpa only [State.sharesStorage, State.storeByte_storageAt, haddr] using hnext

@[simp] theorem State.storeBytes_cur (s : State) (a : Word) (bytes : List Byte) :
    (s.storeBytes a bytes).cur = s.cur := by
  induction bytes generalizing s a with
  | nil => rfl
  | cons v vs ih => exact (ih _ _).trans (State.storeByte_cur s a v)

theorem State.afterStore_writes (s : State) (w : Option WriteRecord) :
    (s.afterStore w).cur.writes = s.cur.writes ++ w.toList := by
  cases w <;> simp [State.afterStore, State.memWrite]

theorem State.memRead_afterStore_other {s : State} {w : Option WriteRecord} {b : Word}
    (h : ∀ r ∈ w.toList, ∀ k < r.bytes.length, ¬ s.sharesStorage (r.address + BitVec.ofNat 16 k) b) :
    (s.afterStore w).memRead b = s.memRead b := by
  cases w with
  | none => rfl
  | some r => exact State.memRead_storeBytes_other (s := s.logWrite r) (h r (by simp))

/-- Settles O21: an instruction leaves the memory and the log of at most one store (`exec_storesAlike`), and a store
leaves the bytes it does not name. -/
theorem everyWriteIsLogged : Obligations.EveryWriteIsLogged := by
  intro i s t h
  obtain ⟨-, -, w, hw, -⟩ := exec_storesAlike (b := s.bus) (fun _ => rfl) h
  refine ⟨w.toList, by rw [hw.writes, State.afterStore_writes], by cases w <;> simp, fun b hb => ?_⟩
  rw [State.memRead_congr hw.ie hw.bus hw.draws, State.memRead_afterStore_other hb]

/-! ### Two runs on FlatBus that differ in the byte at 0xFFFF -/

/-- Two buses of storage only that hold the same bytes but at 0xFFFF, where the second holds `k`. -/
structure AlikeBelowIe (k : Byte) (b b' : Bus) : Prop where
  same : b' = { b with mem := b'.mem }
  flat : b.regions = []
  wf : Memory.wf b.mem
  wf' : Memory.wf b'.mem
  agree : ∀ a, a ≠ 0xFFFF → Memory.read b'.mem a = Memory.read b.mem a
  hidden : Memory.read b'.mem 0xFFFF = k

/-- On FlatBus a write stores in memory. -/
theorem Bus.write_flat {b : Bus} (h : b.regions = []) (a : Nat) (v : Byte) :
    b.write a v = { b with mem := b.mem.write a v } := by
  simp [Bus.write, Bus.kindAt_flat h]

theorem Bus.read_flat {b : Bus} (h : b.regions = []) (draw a : Nat) : b.read draw a = b.mem.read a := by
  simp [Bus.read, Bus.kindAt_flat h]

theorem ne_ieAddress_toNat {a : Word} (ha : a ≠ 0xFFFF#16) : a.toNat ≠ 0xFFFF := fun h => ha (BitVec.eq_of_toNat_eq h)

section AlikeBelowIe

variable {k : Byte} {b b' : Bus} (h : AlikeBelowIe k b b')
include h

theorem AlikeBelowIe.regions : b'.regions = b.regions := by rw [h.same]

theorem AlikeBelowIe.write {a : Word} (ha : a ≠ 0xFFFF#16) (v : Byte) :
    AlikeBelowIe k (b.write a.toNat v) (b'.write a.toNat v) := by
  have ha' := ne_ieAddress_toNat ha
  rw [Bus.write_flat h.flat, Bus.write_flat (h.regions.trans h.flat)]
  refine ⟨?_, h.flat, Memory.wf_write h.wf a.isLt v, Memory.wf_write h.wf' a.isLt v, fun c hc => ?_, ?_⟩
  · rw [h.same]
  · rw [Memory.read_write h.wf', Memory.read_write h.wf, h.agree c hc]
  · rw [Memory.read_write_other _ _ ha'.symm, h.hidden]

/-- A change of IF. -/
theorem AlikeBelowIe.setIf (v : BitVec 5) : AlikeBelowIe k { b with ifReg := v } { b' with ifReg := v } :=
  ⟨by rw [h.same], h.flat, h.wf, h.wf', h.agree, h.hidden⟩

theorem AlikeBelowIe.irqFromIf : b'.irqFromIf = b.irqFromIf := by rw [h.same]

theorem AlikeBelowIe.ifReg : b'.ifReg = b.ifReg := by rw [h.same]

theorem AlikeBelowIe.raise (irq : BitVec 5) : AlikeBelowIe k (b.raise irq) (b'.raise irq) := by
  simp only [Bus.raise, h.irqFromIf, h.ifReg]
  split
  · simpa only [h.irqFromIf] using h.setIf (b.ifReg ||| irq)
  · exact h

theorem AlikeBelowIe.acknowledge (ack : BitVec 5) : AlikeBelowIe k (b.acknowledge ack) (b'.acknowledge ack) := by
  simp only [Bus.acknowledge, h.irqFromIf, h.ifReg]
  split
  · simpa only [h.irqFromIf] using h.setIf (b.ifReg &&& ~~~ack)
  · exact h

theorem AlikeBelowIe.requestLines (irq : BitVec 5) : b'.requestLines irq = b.requestLines irq := by
  simp only [Bus.requestLines, h.irqFromIf, h.ifReg]

end AlikeBelowIe

section TwoRuns

variable {k : Byte} {s : State} {b : Bus} (h : AlikeBelowIe k s.bus b)
include h

/-- The core reads IE at 0xFFFF, so it reads the two buses alike. -/
theorem AlikeBelowIe.readsSame : ReadsSame s (s.setBus b) := by
  intro a
  simp only [State.memRead_def, State.setBus_cpu, State.setBus_bus, State.setBus_draws]
  split
  · rfl
  · rw [Bus.read_flat h.flat, Bus.read_flat (h.regions.trans h.flat), h.agree _ (ne_ieAddress_toNat ‹_›)]

theorem AlikeBelowIe.storeBytes (a : Word) (bytes : List Byte) :
    AlikeBelowIe k (s.storeBytes a bytes).bus ((s.setBus b).storeBytes a bytes).bus := by
  induction bytes generalizing s b a with
  | nil => exact h
  | cons v vs ih =>
    simp only [State.storeBytes, State.storeByte]
    split
    · exact ih (s := s.setIe v) h _
    · exact ih (s := s.setBus (s.bus.write a.toNat v)) (h.write ‹_› v) _

theorem AlikeBelowIe.afterStore (w : Option WriteRecord) :
    AlikeBelowIe k (s.afterStore w).bus ((s.setBus b).afterStore w).bus := by
  cases w with
  | none => exact h
  | some r => exact AlikeBelowIe.storeBytes (s := s.logWrite r) h _ _

/-- What is stored alike leaves the two buses alike. -/
theorem AlikeBelowIe.storesAlike {t t' : State} (hst : StoresAlike s b t t') :
    ∃ b', AlikeBelowIe k t.bus b' ∧ t' = t.setBus b' := by
  obtain ⟨w, hw, rfl⟩ := hst
  exact ⟨_, by rw [hw.bus]; exact h.afterStore w, rfl⟩

end TwoRuns

/-- The same answer, but for the bus of its state, which is alike. -/
inductive SameAnswer (k : Byte) : Result → Result → Prop
  | next {t : State} {b : Bus} (h : AlikeBelowIe k t.bus b) : SameAnswer k (.next t) (.next (t.setBus b))
  | fault {r : FaultRecord} {t : State} {b : Bus} (h : AlikeBelowIe k t.bus b) :
      SameAnswer k (.fault (.unknownOpcode r t)) (.fault (.unknownOpcode r (t.setBus b)))

section Phases

variable {k : Byte} {s : State} {b : Bus} (h : AlikeBelowIe k s.bus b)
include h

/-- The end of a step. -/
theorem SameAnswer.finish (kind : StepKind) (n : Nat) :
    SameAnswer k (.next (s.finish kind n)) (.next ((s.setBus b).finish kind n)) :=
  .next (t := s.finish kind n) (h.acknowledge s.cur.irqAck)

/-- An instruction: a row that does not complete is an invalid one, which stores nothing. -/
theorem SameAnswer.exec (i : Instr) : SameAnswer k (exec i s) (exec i (s.setBus b)) := by
  cases hi : i.isInvalid
  · obtain ⟨t, ht⟩ := exec_next hi s
    obtain ⟨t', ht', hst⟩ := exec_storesAlike h.readsSame ht
    obtain ⟨b', hb', rfl⟩ := h.storesAlike hst
    rw [ht, ht']
    exact .next hb'
  · obtain ⟨op, hop⟩ := (isInvalid_iff i).1 hi
    simp only [exec_eq_familyMeaning, hop]
    exact .fault h

omit h in
theorem SameAnswer.completeStep (i : Instr) {x y : Result} (hxy : SameAnswer k x y) :
    SameAnswer k (completeStep i x) (completeStep i y) := by
  cases hxy with
  | next h => exact .finish h _ _
  | fault h => exact .fault h

/-- The two runs fetch the same bytes. -/
theorem State.window_setBus : (s.setBus b).window = s.window :=
  congrArg₂ Prod.mk (h.readsSame _) (congrArg₂ Prod.mk (h.readsSame _) (h.readsSame _))

theorem State.fetchedInstr_setBus : (s.setBus b).fetchedInstr = s.fetchedInstr := by
  simp only [State.fetchedInstr, State.window_setBus h]

theorem State.ready_setBus (i : Instr) : (s.setBus b).ready i = (s.ready i).setBus b := by
  simp only [State.ready_eq, State.fetchedOpcode, State.window_setBus h]
  rfl

theorem SameAnswer.executeStep : SameAnswer k s.executeStep (s.setBus b).executeStep := by
  simp only [State.executeStep, State.fetchedInstr_setBus h, State.ready_setBus h]
  have hready : AlikeBelowIe k (s.ready s.fetchedInstr).bus b := by rw [State.ready_eq]; exact h
  exact .completeStep _ (.exec hready _)

theorem SameAnswer.dispatchStep (n : Fin 5) :
    SameAnswer k (.next (s.dispatchStep n)) (.next ((s.setBus b).dispatchStep n)) := by
  have hpush : StoresAlike s b (s.takeInterrupt n) ((s.setBus b).takeInterrupt n) :=
    (StoresAlike.after (u := (s.setIme false).setImeScheduled false) (.callTo .int (vector n))).andThen
      (State.setIrqAck · (sourceBit n))
  obtain ⟨b', hb', ht'⟩ := h.storesAlike hpush
  simp only [State.dispatchStep, ht']
  exact .finish hb' _ _

theorem SameAnswer.dispatchOrExecute : SameAnswer k s.dispatchOrExecute (s.setBus b).dispatchOrExecute := by
  have htarget : (s.setBus b).dispatchTarget = s.dispatchTarget := rfl
  simp only [State.dispatchOrExecute, htarget]
  split
  · exact .dispatchStep h _
  · exact .executeStep h

omit h in
theorem State.leaveHalt_setBus (s : State) (b : Bus) : (s.setBus b).leaveHalt = s.leaveHalt.setBus b := by
  by_cases hs : s.cpu.halted = true <;> simp [State.leaveHalt, State.setBus, hs]

theorem SameAnswer.fromHaltedCheck : SameAnswer k s.fromHaltedCheck (s.setBus b).fromHaltedCheck := by
  have hstays : (s.setBus b).staysHalted = s.staysHalted := rfl
  simp only [State.fromHaltedCheck, hstays]
  split
  · exact .finish h _ _
  · rw [State.leaveHalt_setBus]
    exact .dispatchOrExecute (s := s.leaveHalt) (by rwa [State.leaveHalt_bus])

theorem SameAnswer.fromStoppedCheck : SameAnswer k s.fromStoppedCheck (s.setBus b).fromStoppedCheck := by
  have hstays : (s.setBus b).staysStopped = s.staysStopped := rfl
  simp only [State.fromStoppedCheck, hstays]
  split
  · exact .finish h _ _
  · exact .fromHaltedCheck (s := s.leaveStop) h

theorem State.beginStep_setBus : (s.setBus b).beginStep = s.beginStep.setBus (b.raise s.nextInputs.irq) := by
  have hlines := (h.raise s.nextInputs.irq).requestLines s.nextInputs.irq
  have hin : (s.setBus b).nextInputs = s.nextInputs := rfl
  simp only [State.beginStep, hin, State.setBus_bus, hlines]
  rfl

theorem SameAnswer.step (hf : s.cpu.fault = none) : SameAnswer k (step s) (step (s.setBus b)) := by
  rw [step_of_running hf, step_of_running (s := s.setBus b) hf, State.beginStep_setBus h]
  exact .fromStoppedCheck (s := s.beginStep) (h.raise _)

end Phases

theorem SameAnswer.of_next {k : Byte} {t : State} {y : Result} (h : SameAnswer k (.next t) y) :
    ∃ b, AlikeBelowIe k t.bus b ∧ y = .next (t.setBus b) := by
  cases h with
  | next hb => exact ⟨_, hb, rfl⟩

theorem SameAnswer.of_fault {k : Byte} {r : FaultRecord} {t : State} {y : Result}
    (h : SameAnswer k (.fault (.unknownOpcode r t)) y) :
    ∃ b, AlikeBelowIe k t.bus b ∧ y = .fault (.unknownOpcode r (t.setBus b)) := by
  cases h with
  | fault hb => exact ⟨_, hb, rfl⟩

theorem AlikeBelowIe.setBus_eq {k : Byte} {t : State} {b : Bus} (h : AlikeBelowIe k t.bus b) :
    t.setBus b = { t with bus := { t.bus with mem := b.mem } } := congrArg t.setBus h.same

/-- Only a state without a fault has a next state. -/
theorem fault_none_of_step_next {s t : State} (h : step s = .next t) : s.cpu.fault = none := by
  cases hf : s.cpu.fault with
  | none => rfl
  | some r => simp [step_of_fault hf] at h

/-- Settles O22: every phase of a step answers alike on two buses that are alike below 0xFFFF. -/
theorem busByteAtIeIsHidden : Obligations.BusByteAtIeIsHidden := by
  intro s m hflat hwf hwf' hagree
  have hb : AlikeBelowIe (Memory.read m 0xFFFF) s.bus { s.bus with mem := m } := ⟨rfl, hflat, hwf, hwf', hagree, rfl⟩
  refine ⟨fun t ht => ?_, fun r t hf ht => ?_⟩
  · have hstep := SameAnswer.step hb (fault_none_of_step_next ht)
    rw [ht] at hstep
    obtain ⟨b', hb', hy⟩ := hstep.of_next
    exact ⟨b'.mem, hb'.setBus_eq ▸ hy, hb'.agree, hb'.hidden⟩
  · have hstep := SameAnswer.step hb hf
    rw [ht] at hstep
    obtain ⟨b', hb', hy⟩ := hstep.of_fault
    exact ⟨b'.mem, hb'.setBus_eq ▸ hy, hb'.agree⟩

/-! ### Byte order -/

theorem State.keeps_flat {s : State} (h : s.bus.regions = []) (a : Word) : s.keeps a := .inr (.inl (Bus.kindAt_flat h _))

/-- On FlatBus every address is the one name of its storage. -/
theorem State.sharesStorage_flat {s : State} (h : s.bus.regions = []) {a b : Word} (hab : s.sharesStorage a b) :
    a = b := by
  obtain ⟨he, -⟩ := hab
  simp only [State.storageAt_def, Bus.storageAt, Bus.kindAt_flat h] at he
  split_ifs at he with ha hb
  · rw [ha, hb]
  · exact BitVec.eq_of_toNat_eq (Storage.mem.inj he)

/-- A stored word is read back by bytes and as a word where both bytes are kept in storage of their own. -/
theorem Stored.word_reads {s t : State} {label : WriteLabel} {a v : Word} (h : Stored s t label a (wordBytes v))
    (hlo : s.keeps a) (hhi : s.keeps (a + 1#16)) (hsep : ¬ s.sharesStorage (a + 1#16) a) :
    t.memRead a = v.lo ∧ t.memRead (a + 1#16) = v.hi ∧ t.wordAt a = v := by
  have hread0 : t.memRead a = v.lo := by
    have hlast : ∀ j, 0 < j → j < 2 → ¬ s.sharesStorage (a + BitVec.ofNat 16 j) (a + BitVec.ofNat 16 0) := by
      intro j h0 h2
      obtain rfl : j = 1 := by omega
      simpa using hsep
    simpa [wordBytes] using h.held 0 Nat.two_pos (by simpa using hlo) hlast
  have hread1 : t.memRead (a + 1#16) = v.hi :=
    h.held 1 Nat.one_lt_two hhi fun j h1 (h2 : j < 2) => by omega
  exact ⟨hread0, hread1, by rw [State.wordAt, hread0, hread1]; exact Word.ofBytes_hi_lo v⟩

/-- A stored word leaves the storage of every other address. -/
theorem Stored.word_outside {s t : State} {label : WriteLabel} {a v b : Word} (h : Stored s t label a (wordBytes v))
    (h0 : ¬ s.sharesStorage a b) (h1 : ¬ s.sharesStorage (a + 1#16) b) : t.memRead b = s.memRead b := by
  refine h.outside b fun k (hk : k < 2) => ?_
  obtain rfl | rfl : k = 0 ∨ k = 1 := by omega
  · simpa using h0
  · exact h1

/-- Settles O26: what the store of two bytes leaves (`State.memWrite_word`), and on FlatBus each address has storage of
its own. -/
theorem littleEndianStore : Obligations.LittleEndianStore := by
  intro s label a v hm
  have hst := State.memWrite_word hm label a v
  refine ⟨hst.word_reads, fun b => hst.word_outside, fun hflat =>
    ⟨State.keeps_flat hflat _, State.keeps_flat hflat _, fun hsh => ?_⟩⟩
  have hne : a + 1#16 ≠ a := by bv_omega
  exact hne (State.sharesStorage_flat hflat hsh)

/-! ### The kinds of address of a bus -/

theorem Bus.storageAt_ram {b : Bus} {a : Nat} (h : b.kindAt a = .ram) : b.storageAt a = .mem a := by
  simp [Bus.storageAt, h]

theorem Bus.read_unmapped {b : Bus} {a : Nat} (h : b.kindAt a = .unmapped) (draw : Nat) : b.read draw a = 0xFF#8 := by
  simp [Bus.read, h, Bus.fill]

/-- A write of an unmapped or a read-only address changes nothing. -/
theorem Bus.write_discarded {b : Bus} {a : Nat} (h : b.kindAt a = .unmapped ∨ b.kindAt a = .rom) (v : Byte) :
    b.write a v = b := by
  rcases h with h | h <;> simp [Bus.write, h]

/-- Settles O27: by the kind of the address. -/
theorem busReadsAndWrites : Obligations.BusReadsAndWrites := by
  intro b draw a v hm
  refine ⟨fun ha => ⟨Bus.read_write_same hm draw a v (.inl ha), fun c hc hca => Bus.read_write_other b draw v ?_⟩,
    fun ha => ⟨Bus.read_unmapped ha draw, Bus.write_discarded (.inl ha) v⟩, fun ha => Bus.write_discarded (.inr ha) v,
    fun hflat => Bus.kindAt_flat hflat a, fun s label w => State.afterStore_writes s (some ⟨label, w, [v]⟩)⟩
  simp [Bus.storageAt_ram ha, Bus.storageAt_ram hc, hca.symm]

/-! ### The arbiter -/

/-- Settles O25: each access by the address it names, and `MemWrite` by definition. -/
theorem arbiterRoutesIe : Obligations.ArbiterRoutesIe := fun s _ _ _ _ =>
  ⟨s.memRead_ie, fun ha => if_neg ha, rfl, fun ha => if_neg ha, rfl, rfl⟩

/-! ### The memory map of DMGBus -/

section Regions

variable {first last a : Nat} {kind : RegionKind} {rs : List Region}

theorem kindIn_inside (h1 : first ≤ a) (h2 : a ≤ last) : kindIn (⟨first, last, kind⟩ :: rs) a = kind := by
  simp [kindIn, Region.holds, h1, h2]

theorem kindIn_outside (h : ¬(first ≤ a ∧ a ≤ last)) : kindIn (⟨first, last, kind⟩ :: rs) a = kindIn rs a := by
  simp [kindIn, Region.holds, h]

theorem kindIn_nil : kindIn [] a = .ram := rfl

end Regions

/-- An echo of plain storage is that storage. -/
theorem Bus.echo_eq {b : Bus} {a back : Nat} (ha : b.kindAt a = .echo back) (hback : b.kindAt (a - back) = .ram)
    (draw : Nat) (v : Byte) : b.read draw a = b.read draw (a - back) ∧ b.write a v = b.write (a - back) v := by
  simp [Bus.read, Bus.write, ha, hback]

theorem Bus.interruptFlag_eq {b : Bus} {a : Nat} (ha : b.kindAt a = .interruptFlag) (draw : Nat) (v : Byte) :
    b.read draw a = 0b111#3 ++ b.ifReg ∧ b.write a v = { b with ifReg := v.extractLsb' 0 5 } := by
  simp [Bus.read, Bus.write, ha]

/-- Settles O28: each row of the table by the regions that hold its addresses, and an echo and IF by their kind. -/
theorem dmgMemoryMap : Obligations.DmgMemoryMap := by
  intro cartRam a ha
  constructor
  · change kindIn (dmgRegions cartRam) a = _
    split_ifs <;> simp (disch := omega) [dmgRegions, kindIn_inside, kindIn_outside, kindIn_nil, *]
  intro b draw v hb
  have hkind : ∀ c, b.kindAt c = kindIn (dmgRegions cartRam) c := fun c => by rw [Bus.kindAt, hb]
  constructor
  · intro h1 h2
    have hecho : b.kindAt a = .echo 0x2000 := by
      simp (disch := omega) only [hkind, dmgRegions, kindIn_inside, kindIn_outside]
    have hram : b.kindAt (a - 0x2000) = .ram := by
      simp (disch := omega) only [hkind, dmgRegions, kindIn_outside, kindIn_nil]
    exact Bus.echo_eq hecho hram draw v
  · rintro rfl
    have hif : b.kindAt 0xFF0F = .interruptFlag := by
      simp (disch := omega) only [hkind, dmgRegions, kindIn_inside, kindIn_outside]
    exact Bus.interruptFlag_eq hif draw v

end Sys2Proof.Machine
end

section
/-! PROOFS. The statements of spec/30_encoding.md: the encoder and the decoder are inverse to each other (R180, R195,
R201), the words of R203 and R204, the eleven invalid opcodes (R196) and the CB-prefixed ones (R197). -/

namespace Sys2Proof.Laws.WindowBack

/-- Every row's window is the row: the lemmas of the rows, in the order of the constructors. -/
theorem statement_all (i : Instr) : Statement i :=
  Instr.rec (motive := Statement)
    ldBcD16 ldBD8 ldMa16Sp ldCD8 stop ldDeD16 ldDD8 jrE8 ldED8 jrNzE8 ldHlD16 ldHD8 jrZE8 ldLD8 jrNcE8 ldSpD16
    ldMhlD8 jrCE8 ldAD8 jpNzA16 jpA16 callNzA16 addAD8 jpZA16 callZA16 callA16 adcAD8 jpNcA16 callNcA16 subD8
    jpCA16 callCA16 sbcAD8 ldhMa8A andD8 addSpE8 ldMa16A xorD8 ldhAMa8 orD8 ldHlSpE8 ldAMa16 cpD8 bitB bitC bitD
    bitE bitH bitL bitMhl bitA resB resC resD resE resH resL resMhl resA setB setC setD setE setH setL setMhl setA
    nop ldMbcA incBc incB decB rlca addHlBc ldAMbc decBc incC decC rrca ldMdeA incDe incD decD rla addHlDe ldAMde
    decDe incE decE rra ldMhlIncA incHl incH decH daa addHlHl ldAMhlInc decHl incL decL cpl ldMhlDecA incSp incMhl
    decMhl scf addHlSp ldAMhlDec decSp incA decA ccf ldBB ldBC ldBD ldBE ldBH ldBL ldBMhl ldBA ldCB ldCC ldCD ldCE
    ldCH ldCL ldCMhl ldCA ldDB ldDC ldDD ldDE ldDH ldDL ldDMhl ldDA ldEB ldEC ldED ldEE ldEH ldEL ldEMhl ldEA ldHB
    ldHC ldHD ldHE ldHH ldHL ldHMhl ldHA ldLB ldLC ldLD ldLE ldLH ldLL ldLMhl ldLA ldMhlB ldMhlC ldMhlD ldMhlE
    ldMhlH ldMhlL halt ldMhlA ldAB ldAC ldAD ldAE ldAH ldAL ldAMhl ldAA addAB addAC addAD addAE addAH addAL
    addAMhl addAA adcAB adcAC adcAD adcAE adcAH adcAL adcAMhl adcAA subB subC subD subE subH subL subMhl subA
    sbcAB sbcAC sbcAD sbcAE sbcAH sbcAL sbcAMhl sbcAA andB andC andD andE andH andL andMhl andA xorB xorC xorD
    xorE xorH xorL xorMhl xorA orB orC orD orE orH orL orMhl orA cpB cpC cpD cpE cpH cpL cpMhl cpA retNz popBc
    pushBc rst00h retZ ret prefixCb rst08h retNc popDe invalidD3 pushDe rst10h retC reti invalidDB invalidDD
    rst18h popHl ldMcA invalidE3 invalidE4 pushHl rst20h jpHl invalidEB invalidEC invalidED rst28h popAf ldAMc di
    invalidF4 pushAf rst30h ldSpHl ei invalidFC invalidFD rst38h rlcB rlcC rlcD rlcE rlcH rlcL rlcMhl rlcA rrcB
    rrcC rrcD rrcE rrcH rrcL rrcMhl rrcA rlB rlC rlD rlE rlH rlL rlMhl rlA rrB rrC rrD rrE rrH rrL rrMhl rrA slaB
    slaC slaD slaE slaH slaL slaMhl slaA sraB sraC sraD sraE sraH sraL sraMhl sraA swapB swapC swapD swapE swapH
    swapL swapMhl swapA srlB srlC srlD srlE srlH srlL srlMhl srlA
    i

end Sys2Proof.Laws.WindowBack

namespace Sys2Proof.Machine

/-! ### The bytes of an encoding -/

/-- The prefixed forms have no immediate. -/
theorem Form.immBytes_of_prefixed {f : Form} (h : f.prefixed = true) : f.immBytes = [] := by
  cases f
  case rot | bit | res | set => rfl
  all_goals cases h

/-- The encoder writes as many bytes as the row's length. -/
theorem length_encode (i : Instr) : (encode i).length = i.length := by
  unfold encode Instr.length Form.length
  cases hp : i.form.prefixed with
  | true => simp [Form.immBytes_of_prefixed hp]
  | false => simp [Nat.add_comm]

/-- An unprefixed row is its opcode and its immediate. -/
theorem encode_of_unprefixed {i : Instr} (h : i.form.prefixed = false) :
    encode i = i.form.opcode :: i.form.immBytes := by
  simp [encode, h]

theorem length_of_unprefixed {i : Instr} (h : i.form.prefixed = false) :
    i.length = 1 + i.form.immBytes.length := by
  simp [Instr.length, Form.length, h]

/-! ### Decoding what was encoded -/

/-- The first two elements of two lists together need only the first two of the second. -/
theorem getD_append_pair {α : Type} (xs rest : List α) (d : α) {k : Nat} (hk : k < 2) :
    (xs ++ rest).getD k d = (xs ++ [rest.getD 0 d, rest.getD 1 d]).getD k d := by
  obtain rfl | rfl : k = 0 ∨ k = 1 := by omega
  · cases xs <;> rfl
  · match xs with
    | [] | [_] | _ :: _ :: _ => rfl

/-- Settles O1: the window of the row's bytes is the row, and the row has as many bytes as its length. -/
theorem encodeThenDecode : Obligations.EncodeThenDecode := by
  intro i rest hw
  have hwindow := Laws.WindowBack.statement_all i hw (rest.getD 0 0#8) (rest.getD 1 0#8)
  have hlen := length_encode i
  obtain ⟨b0, tail, he⟩ := List.exists_cons_of_length_pos (hlen ▸ i.length_bounds.1)
  rw [he] at hwindow hlen ⊢
  rw [List.length_cons] at hlen
  have hdecode : decodeWindow b0 ((tail ++ rest).getD 0 0#8) ((tail ++ rest).getD 1 0#8) = i := by
    rw [getD_append_pair _ _ _ Nat.two_pos, getD_append_pair _ _ _ Nat.one_lt_two]
    exact hwindow
  have hfits : i.length ≤ 1 + (tail ++ rest).length := by rw [List.length_append]; omega
  rw [List.cons_append, decode_cons_of hdecode hfits, List.drop_left' (by omega)]

/-! ### Encoding what was decoded -/

/-- A row of the unprefixed table encodes to the first bytes of its window. -/
theorem encode_decodeMain (b0 b1 b2 : Byte) :
    encode (decodeMain b0 b1 (Word.ofBytes b2 b1)) =
      [b0, b1, b2].take (decodeMain b0 b1 (Word.ofBytes b2 b1)).length := by
  obtain ⟨hp, hop⟩ := decodeMain_opcode b0 b1 (Word.ofBytes b2 b1)
  have himm := decodeMain_immBytes b0 b1 (Word.ofBytes b2 b1)
  have hmax := (decodeMain b0 b1 (Word.ofBytes b2 b1)).length_bounds.2
  rw [length_of_unprefixed hp] at hmax ⊢
  rw [encode_of_unprefixed hp, hop]
  generalize (decodeMain b0 b1 (Word.ofBytes b2 b1)).form.immBytes = imm at *
  match hn : imm.length with
  | 0 | 1 => rw [himm, hn]; rfl
  | 2 => rw [himm, hn]; simp
  | n + 3 => omega

/-- So does the row of any window. -/
theorem encode_decodeWindow (b0 b1 b2 : Byte) :
    encode (decodeWindow b0 b1 b2) = [b0, b1, b2].take (decodeWindow b0 b1 b2).length := by
  unfold decodeWindow
  split
  · rename_i hcb
    obtain ⟨he, hl, -⟩ := encode_decodeCB b1
    rw [he, hl, hcb]
    rfl
  · exact encode_decodeMain b0 b1 b2

/-- The first bytes of a window, then what the decoder leaves, are the bytes of the window's list. -/
theorem take_window_append_drop {α : Type} (b0 d : α) (bytes : List α) {n : Nat} (h1 : 1 ≤ n) (h3 : n ≤ 3)
    (hn : n ≤ 1 + bytes.length) :
    [b0, bytes.getD 0 d, bytes.getD 1 d].take n ++ bytes.drop (n - 1) = b0 :: bytes := by
  obtain rfl | rfl | rfl : n = 1 ∨ n = 2 ∨ n = 3 := by omega
  · rfl
  · match bytes, hn with
    | _ :: _, _ => rfl
  · match bytes, hn with
    | _ :: _ :: _, _ => rfl

/-- Settles O2: a window's row encodes to the first bytes of the window, and the decoder leaves the others. -/
theorem decodeThenEncode : Obligations.DecodeThenEncode := by
  intro bytes rest i h _
  cases bytes with
  | nil => cases h
  | cons b0 bytes =>
    obtain ⟨rfl, hfits, rfl⟩ := decode_cons_iff.1 h
    obtain ⟨h1, h3⟩ := (decodeWindow b0 (bytes.getD 0 0#8) (bytes.getD 1 0#8)).length_bounds
    rw [encode_decodeWindow]
    exact take_window_append_drop b0 0#8 bytes h1 h3 hfits

/-! ### Words written out -/

/-- The bytes of a well-formed row and no more decode to the row. -/
theorem decode_of_encode {i : Instr} {bytes : List Byte} (he : encode i = bytes) (hw : i.wellFormed = true) :
    decode bytes = .ok (i, []) := by
  simpa [he] using encodeThenDecode i [] hw

/-- Settles O3: each word is the encoding of its instruction. -/
theorem writtenOutWords : Obligations.WrittenOutWords := by
  unfold Obligations.WrittenOutWords
  and_intros <;> exact decode_of_encode rfl rfl

/-! ### The invalid opcodes -/

/-- An invalid window's row faults with the first byte of the window (spec/60_exceptions.md R551). -/
theorem exec_invalid_window {b0 b1 b2 : Byte} (h : (decodeWindow b0 b1 b2).isInvalid = true) (s : State) :
    exec (decodeWindow b0 b1 b2) s = s.raiseUnknownOpcode b0 := by
  rw [exec_eq_familyMeaning, decodeWindow_invalid h]
  rfl

/-- A window's row is never PREFIX CB, so it is an instruction unless it is an invalid one. -/
theorem decodeWindow_wellFormed (b0 b1 b2 : Byte) :
    (decodeWindow b0 b1 b2).wellFormed = !(decodeWindow b0 b1 b2).isInvalid := by
  simp [Instr.wellFormed, decodeWindow_isPrefix]

/-- Settles O4: the invalid windows by their first byte, the fault by the meaning of the form `invalid`. -/
theorem elevenInvalidOpcodes : Obligations.ElevenInvalidOpcodes := by
  intro b0 b1 b2
  refine ⟨by rw [decodeWindow_isInvalid, decide_eq_true_iff], fun h s => ?_, fun h => ?_⟩
  · exact ⟨_, _, exec_invalid_window h s, rfl⟩
  · rw [decodeWindow_wellFormed, h, Bool.not_false]

/-! ### The CB-prefixed opcodes -/

theorem isInvalid_of_wellFormed {i : Instr} (hw : i.wellFormed = true) : i.isInvalid = false := by
  rw [Instr.wellFormed, Bool.and_eq_true, Bool.not_eq_true', Bool.not_eq_true'] at hw
  exact hw.2

/-- Settles O5: a CB-opcode is a well-formed row of two bytes, and every well-formed row completes. -/
theorem everyCbOpcodeRuns : Obligations.EveryCbOpcodeRuns := by
  intro op b2
  obtain ⟨-, hlen, hw⟩ := encode_decodeCB op
  exact ⟨hw, hlen, exec_next (isInvalid_of_wellFormed hw)⟩

end Sys2Proof.Machine
end

section
/-! PROOFS. The statements of spec/40_engine.md: the stopped and the halted step (R232, R233), the fetched instruction
and the state it executes in (R231, R239 to R243), the EI promotion (R236), and PUSH then POP (R249, R250). -/

namespace Sys2Proof.Machine

/-! ### The stopped and the halted step -/

theorem State.leaveStop_of_not_stopped {s : State} (h : s.cpu.stopped = false) : s.leaveStop = s := by
  rw [State.leaveStop, State.setStopped, ← h]

/-- A no-op step changes CYCLES, by 4, and the requests of the peripherals; its snapshot has no write and no
acknowledge. -/
theorem State.idle_beginStep (s : State) (k : StepKind) :
    (s.beginStep.idle k).cpu = { s.cpu with cycles := s.cpu.cycles + 4 } ∧
      (s.beginStep.idle k).bus = s.bus.raise s.nextInputs.irq ∧ (s.beginStep.idle k).params = s.params ∧
      (s.beginStep.idle k).snapshot = some ⟨s.cpu, (s.beginStep.idle k).cpu, k, [], 4, 0#5⟩ :=
  ⟨rfl, Bus.acknowledge_none _, rfl, rfl⟩

theorem State.staysStopped_beginStep {s : State} (h : s.cpu.stopped = true) :
    s.beginStep.staysStopped = !s.nextInputs.stopWake := by
  simp [State.staysStopped, h]

/-- Settles O8: a stopped step is the no-op or goes on, by STOP_WAKE. -/
theorem stoppedStep : Obligations.StoppedStep := by
  intro s hf hstop
  have hstays := State.staysStopped_beginStep hstop
  refine ⟨fun hwake => ?_, fun hwake => ⟨rfl, ?_⟩⟩ <;> rw [hwake] at hstays
  · obtain ⟨hcpu, hbus, hparams, hsnap⟩ := s.idle_beginStep .stopped
    have hstep : step s = .next (s.beginStep.idle .stopped) := (step_of_running hf).trans (if_pos hstays)
    exact ⟨_, hstep, hcpu, hbus, hparams, hsnap, rfl⟩
  · exact (step_of_running hf).trans (if_neg (by simp [hstays]))

/-- A step that is not stopped begins with the halted check. -/
theorem step_of_not_stopped {s : State} (hf : s.cpu.fault = none) (hstop : s.cpu.stopped = false) :
    step s = s.beginStep.fromHaltedCheck := by
  have hgoes : s.beginStep.staysStopped = false := by simp [State.staysStopped, hstop]
  have hstill : s.beginStep.leaveStop = s.beginStep := State.leaveStop_of_not_stopped hstop
  rw [step_of_running hf, State.fromStoppedCheck, hgoes, hstill]
  rfl

/-- A halted core stays so exactly while no enabled interrupt is pending. -/
theorem State.staysHalted_eq {s : State} (h : s.cpu.halted = true) : s.staysHalted = decide (s.pending = 0#5) := by
  rw [State.staysHalted, h, Bool.true_and, Bool.eq_iff_iff, Option.isNone_iff_eq_none,
    State.lowestPending_eq_none_iff, decide_eq_true_iff]

theorem State.leaveHalt_lowestPending (s : State) : s.leaveHalt.lowestPending = s.lowestPending := by
  simp [State.lowestPending, State.pendingBit]

/-- With IME = 1 and an enabled interrupt pending a woken core dispatches one. -/
theorem State.leaveHalt_dispatches {s : State} (hime : s.cpu.ime = true) (hp : s.pending ≠ 0#5) :
    ∃ n, s.leaveHalt.dispatchOrExecute = .next (s.leaveHalt.dispatchStep n) := by
  obtain ⟨n, hn⟩ := Option.ne_none_iff_exists'.1 (mt s.lowestPending_eq_none_iff.1 hp)
  refine ⟨n, ?_⟩
  have htarget : s.leaveHalt.dispatchTarget = some n := by
    simp [State.dispatchTarget, State.leaveHalt_lowestPending, hime, hn]
  rw [State.dispatchOrExecute, htarget]

/-- With IME = 0 a woken core dispatches nothing. -/
theorem State.leaveHalt_executes {s : State} (hime : s.cpu.ime = false) :
    s.leaveHalt.dispatchOrExecute = s.leaveHalt.executeStep := by
  have htarget : s.leaveHalt.dispatchTarget = none := by simp [State.dispatchTarget, hime]
  rw [State.dispatchOrExecute, htarget]

/-- Settles O9: a halted step is the no-op or wakes, by PENDING, and a woken core dispatches or fetches, by IME. -/
theorem haltedStep : Obligations.HaltedStep := by
  intro s hf hstop hhalt
  have hstays : s.beginStep.staysHalted = decide (s.beginStep.pending = 0#5) := State.staysHalted_eq hhalt
  have hstep := step_of_not_stopped hf hstop
  refine ⟨fun hp => ?_, fun hp => ?_⟩
  · obtain ⟨hcpu, hbus, hparams, hsnap⟩ := s.idle_beginStep .halted
    exact ⟨_, hstep.trans (if_pos (hstays.trans (decide_eq_true hp))), hcpu, hbus, hparams, hsnap⟩
  · have hwoken : step s = s.beginStep.leaveHalt.dispatchOrExecute :=
      hstep.trans (if_neg (by rw [hstays, decide_eq_true_iff]; exact hp))
    refine ⟨by simp, by simp [hhalt], fun hime => ?_, fun hime => hwoken.trans (State.leaveHalt_executes hime)⟩
    obtain ⟨n, hn⟩ := State.leaveHalt_dispatches (s := s.beginStep) hime hp
    exact ⟨n, hwoken.trans hn⟩

/-! ### The fetched instruction -/

/-- A step that is no no-op and no dispatch executes the instruction at PC. -/
theorem step_executes {s : State} (hf : s.cpu.fault = none) (h1 : s.beginStep.staysStopped = false)
    (h2 : s.beginStep.leaveStop.staysHalted = false) (h3 : s.awake.dispatchTarget = none) :
    step s = s.awake.executeStep := by
  obtain ⟨h, -⟩ | ⟨-, h, -⟩ | ⟨-, -, n, h, -⟩ | ⟨-, -, -, hstep⟩ := step_cases hf
  · simp [h1] at h
  · simp [h2] at h
  · simp [h3] at h
  · exact hstep

/-- What the bytes at PC decode to is the fetched row. -/
theorem State.fetchedInstr_of_decode {s : State} {i : Instr} {rest : List Byte}
    (h : decode s.fetchBytes = .ok (i, rest)) : s.fetchedInstr = i :=
  (decode_cons_iff.1 h).1

/-- Settles O6: the step executes the fetched row, which is the decoded one. -/
theorem stepRunsDecodedInstruction : Obligations.StepRunsDecodedInstruction := by
  rintro s _ i rest hf h1 h2 rfl h3 hdecode -
  have hi : s.awake.fetchedInstr = i := State.fetchedInstr_of_decode hdecode
  have hstep : step s = completeStep i (exec i (s.awake.ready i)) := by
    rw [step_executes hf h1 h2 h3, State.executeStep, hi]
  exact ⟨hstep, fun t ht => hstep.trans (congrArg (completeStep i) ht)⟩

/-! ### The operand value -/

theorem prefixed_decodeCB (op : Byte) : (decodeCB op).form.prefixed = true := by
  rw [form_decodeCB, cbForm]
  split <;> rfl

/-- A CB-prefixed row has no immediate (spec/40_engine.md R242). -/
theorem operandValue_decodeCB (op : Byte) : (decodeCB op).form.operandValue = none := by
  rw [Form.operandValue, Form.immBytes_of_prefixed (prefixed_decodeCB op)]

/-- The operand value of a row of the unprefixed table, by its length (spec/40_engine.md R242). -/
theorem operandValue_decodeMain (op n8 : Byte) (n16 : Word) :
    (decodeMain op n8 n16).form.operandValue =
      if (decodeMain op n8 n16).length = 1 then none
      else if (decodeMain op n8 n16).length = 2 then some (n8.zeroExtend 16) else some n16 := by
  have himm := decodeMain_immBytes op n8 n16
  rw [length_of_unprefixed (decodeMain_opcode op n8 n16).1, Form.operandValue]
  generalize (decodeMain op n8 n16).form.immBytes = imm at *
  match hn : imm.length with
  | 0 | 1 => rw [himm, hn]; rfl
  | n + 2 =>
    rw [himm, hn, if_neg (by omega), if_neg (by omega)]
    exact congrArg some (Word.ofBytes_hi_lo n16)

/-- OPERAND_VALUE as an instruction finds it, by its first byte and its length (spec/40_engine.md R242). -/
theorem operandValue_decodeWindow (b0 b1 b2 : Byte) (before : Word) :
    (decodeWindow b0 b1 b2).form.operandValue.getD before =
      if b0 = 0xCB#8 ∨ (decodeWindow b0 b1 b2).length = 1 then before
      else if (decodeWindow b0 b1 b2).length = 2 then b1.zeroExtend 16 else b2 ++ b1 := by
  by_cases hcb : b0 = 0xCB#8
  · rw [decodeWindow, if_pos hcb, operandValue_decodeCB, if_pos (.inl hcb), Option.getD_none]
  · have hrow : decodeWindow b0 b1 b2 = decodeMain b0 b1 (Word.ofBytes b2 b1) := if_neg hcb
    simp only [hrow, operandValue_decodeMain, hcb, false_or]
    split_ifs <;> rfl

theorem decodeWindow_length_of_prefix {b0 : Byte} (h : b0 = 0xCB#8) (b1 b2 : Byte) :
    (decodeWindow b0 b1 b2).length = 2 := by
  rw [decodeWindow, if_pos h]
  exact (encode_decodeCB b1).2.1

/-- Settles O7: `State.ready_eq`, with OPERAND_VALUE by the length of the row. -/
theorem whatAnInstructionSees : Obligations.WhatAnInstructionSees := by
  rintro s _ _ _ _ _ rfl rfl rfl rfl rfl
  refine ⟨?_, fun hcb => decodeWindow_length_of_prefix hcb _ _⟩
  rw [State.ready_eq, State.fetchedInstr, operandValue_decodeWindow]
  rfl

/-! ### IME and IME_SCHEDULED -/

/-- Well-formed rows of one form are one row: the encoding is made of the form. -/
theorem Instr.eq_of_form_eq {i j : Instr} (hi : i.wellFormed = true) (hj : j.wellFormed = true)
    (h : i.form = j.form) : i = j := by
  have hdecode : decode (encode i ++ []) = .ok (j, []) := by
    rw [encode, h]
    exact encodeThenDecode j [] hj
  rw [encodeThenDecode i [] hi] at hdecode
  exact congrArg Prod.fst (Except.ok.inj hdecode)

/-- Only DI, EI and RETI write IME or IME_SCHEDULED. -/
theorem exec_keeps_ime {i : Instr} {s t : State} (hw : i.wellFormed = true) (hdi : i ≠ .di) (hei : i ≠ .ei)
    (hreti : i ≠ .reti) (h : exec i s = .next t) :
    t.cpu.ime = s.cpu.ime ∧ t.cpu.imeScheduled = s.cpu.imeScheduled := by
  by_cases hsys : Form.isSystem i.form = false
  · have k := steady_exec hsys h
    exact ⟨k.ime, k.imeScheduled⟩
  replace hdi : i.form ≠ .di := fun e => hdi (Instr.eq_of_form_eq hw rfl e)
  replace hei : i.form ≠ .ei := fun e => hei (Instr.eq_of_form_eq hw rfl e)
  replace hreti : i.form ≠ .reti := fun e => hreti (Instr.eq_of_form_eq hw rfl e)
  have hp := form_ne_prefixCB_of_wellFormed hw
  rw [exec_eq_familyMeaning] at h
  generalize i.form = f at h hsys hdi hei hreti hp
  cases f <;> try exact absurd rfl hsys
  case di => exact absurd rfl hdi
  case ei => exact absurd rfl hei
  case reti => exact absurd rfl hreti
  case prefixCB => exact absurd rfl hp
  case invalid => cases h
  case stop =>
    cases h
    exact ⟨rfl, rfl⟩
  case halt =>
    obtain rfl | rfl | ⟨-, -, rfl⟩ := execHalt_cases h <;> exact ⟨rfl, rfl⟩

/-- IME and IME_SCHEDULED after an instruction that found no IME scheduled. -/
theorem exec_ime {i : Instr} {s t : State} (hw : i.wellFormed = true) (hs : s.cpu.imeScheduled = false)
    (h : exec i s = .next t) :
    t.cpu.ime = (if i = .di then false else if i = .reti then true else s.cpu.ime) ∧
      t.cpu.imeScheduled = decide (i = .ei) := by
  by_cases hwrites : i = .di ∨ i = .reti ∨ i = .ei
  · obtain rfl | rfl | rfl := hwrites <;> cases h <;> exact ⟨rfl, rfl⟩
  · obtain ⟨hdi, hreti, hei⟩ : i ≠ .di ∧ i ≠ .reti ∧ i ≠ .ei := by simpa only [not_or] using hwrites
    obtain ⟨hime, hsched⟩ := exec_keeps_ime hw hdi hei hreti h
    rw [if_neg hdi, if_neg hreti, decide_eq_false hei]
    exact ⟨hime, hsched.trans hs⟩

/-- An instruction step promotes a scheduled IME before the instruction runs (spec/40_engine.md R236). -/
theorem StepEnds.instruction_ime {s r : State} {i : Instr} {n : Nat} (h : StepEnds s (.instruction i) r n) :
    r.cpu.ime = (if i = .di then false else if i = .reti then true else s.cpu.ime || s.cpu.imeScheduled) ∧
      r.cpu.imeScheduled = decide (i = .ei) := by
  cases h with
  | instruction _ hw hexec =>
    have hready : (s.awake.ready i).cpu.ime = (s.cpu.ime || s.cpu.imeScheduled) := by simp [State.ready_eq]
    rw [← hready]
    exact exec_ime hw (controlsClear_ready s i).imeScheduled hexec

theorem StepEnds.interrupt_ime {s r : State} {m : Fin 5} {n : Nat} (h : StepEnds s (.interrupt m) r n) :
    s.cpu.ime = true ∧ r.cpu.ime = false ∧ r.cpu.imeScheduled = false := by
  cases h with
  | interrupt _ hime => exact ⟨hime, by simp [State.takeInterrupt], by simp [State.takeInterrupt]⟩

theorem StepEnds.noop_ime {s r : State} {k : StepKind} {n : Nat} (h : StepEnds s k r n)
    (hk : k = .halted ∨ k = .stopped) : r.cpu.ime = s.cpu.ime ∧ r.cpu.imeScheduled = s.cpu.imeScheduled := by
  obtain rfl | rfl := hk <;> cases h <;> exact ⟨rfl, rfl⟩

/-- Settles O14: by the kind of the step, and by the fault state. -/
theorem imePromotion : Obligations.ImePromotion := by
  refine fun s hf => ⟨fun t i h hkind => ?_, fun t m h hkind => ?_, fun t k h hkind hk => ?_, fun r t h => ?_⟩
  · obtain ⟨k, r, n, hr, rfl⟩ := step_ends hf h
    obtain rfl : k = .instruction i := Option.some.inj hkind
    exact hr.instruction_ime
  · obtain ⟨k, r, n, hr, rfl⟩ := step_ends hf h
    obtain rfl : k = .interrupt m := Option.some.inj hkind
    exact hr.interrupt_ime
  · obtain ⟨k', r, n, hr, rfl⟩ := step_ends hf h
    obtain rfl : k' = k := Option.some.inj hkind
    exact hr.noop_ime hk
  · obtain ⟨hcpu, -⟩ := step_fault_state hf h
    rw [hcpu]
    exact ⟨rfl, rfl⟩

/-! ### The stack -/

/-- On FlatBus the pushed word is the one on top of the stack: its two bytes have storage of their own. -/
theorem State.stackTop_push16 {s : State} (hflat : s.bus.regions = []) (hm : Memory.wf s.bus.mem)
    (label : WriteLabel) (v : Word) : (s.push16 label v).stackTop = v := by
  have hsep : ¬ s.sharesStorage (s.cpu.sp - 2#16 + 1#16) (s.cpu.sp - 2#16) := fun hsh => by
    have := State.sharesStorage_flat hflat hsh
    bv_omega
  obtain ⟨-, -, hword⟩ :=
    (State.push16_stored hm label v).word_reads (State.keeps_flat hflat _) (State.keeps_flat hflat _) hsep
  rw [State.stackTop_eq, State.push16_cpu]
  exact hword

/-- A value read from a pair and written to it reads back: the mask of F[3:0] finds 0 there already. -/
theorem State.readStk_writeStk_readStk (s t : State) (rr : R16Stk) :
    (t.writeStk rr (s.readStk rr)).readStk rr = s.readStk rr := by
  cases rr
  case af => simp [State.writeStk, State.readStk, State.readF, BitVec.and_assoc]
  all_goals rfl

theorem State.writeStk_sp (s : State) (rr : R16Stk) (v : Word) : (s.writeStk rr v).cpu.sp = s.cpu.sp := by
  cases rr <;> rfl

/-- Settles O29: the popped word is the pushed one, and SP moves by 2 and back. -/
theorem pushThenPop : Obligations.PushThenPop := by
  intro i j s rr hi hj hflat hm
  simp only [exec_eq_familyMeaning, hi, hj]
  refine ⟨_, _, rfl, rfl, ?_, ?_⟩
  · rw [State.writeStk_sp, State.dropTop_cpu, State.push16_cpu]
    exact BitVec.sub_add_cancel _ _
  · rw [State.stackTop_push16 hflat hm]
    exact State.readStk_writeStk_readStk s _ rr

end Sys2Proof.Machine
end

section
/-! PROOFS. The statements of spec/41_load8.md: the loads of an 8-bit register (R280 to R282), the stores at HL (R283,
R284), and the loads and stores of A through an address (R285 to R298). -/

namespace Sys2Proof.Machine

/-! ### Registers and (HL) -/

/-- A write of an 8-bit register that is not (HL) leaves memory as the core reads it. -/
theorem State.writeR8_readsSame (s : State) {r : R8} (hr : r ≠ .mHL) (v : Byte) : ReadsSame s (s.writeR8 r v) := by
  cases r
  case mHL => exact absurd rfl hr
  all_goals exact ReadsSame.of_cpu rfl

/-- Every load of a register is one write of it (spec/41_load8.md R280 to R282). -/
theorem LoadsR8.exec_eq {i : Instr} {s : State} {r : R8} {v : Byte} (h : LoadsR8 i s r v) :
    exec i s = .next (s.writeR8 r v) := by
  obtain ⟨-, ⟨r', hform, rfl⟩ | hform⟩ := h <;> rw [exec_eq_familyMeaning, hform] <;> rfl

/-- Both stores at HL are one `MemWrite` (spec/41_load8.md R283, R284). -/
theorem StoresAtHL.exec_eq {i : Instr} {s : State} {v : Byte} (h : StoresAtHL i s v) :
    exec i s = .next (s.memWrite .mHL s.cpu.hl [v]) := by
  obtain ⟨r, -, hform, rfl⟩ | hform := h <;> rw [exec_eq_familyMeaning, hform] <;> rfl

/-- Settles O30: the instruction is one write of a register that is not (HL). -/
theorem loadRegister : Obligations.LoadRegister :=
  fun _ s _ v h => ⟨_, h.exec_eq, s.writeR8_writes h.1 v, s.writeR8_readsSame h.1 v⟩

/-- Settles O31: the instruction is one `MemWrite` of one byte. -/
theorem storeAtHL : Obligations.StoreAtHL :=
  fun _ s v h hm => ⟨_, h.exec_eq, State.memWrite_byte hm _ _ _, s.memWrite_byte_cpu _ _ v⟩

/-! ### The step of HL -/

theorem State.setHl_of_eq {s : State} {hl : Word} (h : s.cpu.hl = hl) : s.setHl hl = s := by
  subst h
  rfl

/-- The step of HL after an update that left HL is the write of the stepped HL. -/
theorem State.stepPointer_eq_setHl {s t : State} (h : t.cpu.hl = s.cpu.hl) (p : R16Mem) :
    t.stepPointer p = t.setHl (s.stepPointer p).cpu.hl := by
  cases p
  case bc | de => exact (State.setHl_of_eq h).symm
  case hlInc | hlDec => simp [State.stepPointer, h]

theorem State.loadA_hl (s : State) (a : Word) : (s.loadA a).cpu.hl = s.cpu.hl := rfl

theorem State.storeA_hl (s : State) (label : WriteLabel) (a : Word) : (s.storeA label a).cpu.hl = s.cpu.hl := by
  simp [State.storeA]

/-! ### The accumulator and memory -/

/-- A load of A through a pointer register reads at the pointer, then writes the stepped HL. -/
theorem State.loadAPointer_eq (s : State) (p : R16Mem) :
    s.loadAPointer p = .next ((s.loadA (s.pointer p)).setHl (s.stepPointer p).cpu.hl) :=
  congrArg Host.Outcome.next (State.stepPointer_eq_setHl (s.loadA_hl _) p)

/-- A store of A through a pointer register stores at the pointer, then writes the stepped HL. -/
theorem State.storeAPointer_eq (s : State) (p : R16Mem) :
    s.storeAPointer p =
      .next ((s.storeA (pointerLabel p) (s.pointer p)).setHl (s.stepPointer p).cpu.hl) :=
  congrArg Host.Outcome.next (State.stepPointer_eq_setHl (s.storeA_hl _ _) p)

/-- Every load of A reads the byte at its address, then writes the HL it leaves (spec/41_load8.md R285, R286, R289,
R291, R293, R295, R296). -/
theorem LoadsA.exec_eq {i : Instr} {s : State} {a hl : Word} (h : LoadsA i s a hl) :
    exec i s = .next ((s.loadA a).setHl hl) := by
  rw [exec_eq_familyMeaning]
  obtain ⟨hform, rfl, rfl⟩ | ⟨hform, rfl, rfl⟩ | ⟨hform, rfl, rfl⟩ | ⟨hform, rfl, rfl⟩ | ⟨hform, rfl⟩ |
    ⟨a8, hform, rfl, rfl⟩ | ⟨hform, rfl, rfl⟩ := h <;> rw [hform]
  · exact s.loadAPointer_eq .bc
  · exact s.loadAPointer_eq .de
  · exact s.loadAPointer_eq .hlInc
  · exact s.loadAPointer_eq .hlDec
  · rfl
  · rw [← highPage_eq]
    rfl
  · rw [← highPage_eq]
    rfl

/-- Every store of A is one `MemWrite` at its address, then the write of the HL it leaves (spec/41_load8.md R287, R288,
R290, R292, R294, R297, R298). -/
theorem StoresA.exec_eq {i : Instr} {s : State} {label : WriteLabel} {a hl : Word} (h : StoresA i s label a hl) :
    exec i s = .next ((s.storeA label a).setHl hl) := by
  rw [exec_eq_familyMeaning]
  obtain ⟨hform, rfl, rfl, rfl⟩ | ⟨hform, rfl, rfl, rfl⟩ | ⟨hform, rfl, rfl, rfl⟩ | ⟨hform, rfl, rfl, rfl⟩ |
    ⟨hform, rfl, rfl⟩ | ⟨a8, hform, rfl, rfl, rfl⟩ | ⟨hform, rfl, rfl, rfl⟩ := h <;> rw [hform]
  · exact s.storeAPointer_eq .bc
  · exact s.storeAPointer_eq .de
  · exact s.storeAPointer_eq .hlInc
  · exact s.storeAPointer_eq .hlDec
  · rw [State.setHl_of_eq (s.storeA_hl _ _)]
    rfl
  · rw [State.setHl_of_eq (s.storeA_hl _ _), ← highPage_eq]
    rfl
  · rw [State.setHl_of_eq (s.storeA_hl _ _), ← highPage_eq]
    rfl

/-- Settles O32: the instruction writes A and HL and nothing else. -/
theorem loadAccumulator : Obligations.LoadAccumulator := by
  rintro i s _ a hl h rfl
  exact ⟨h.exec_eq, ReadsSame.of_cpu rfl⟩

/-- Settles O33: the instruction is one `MemWrite` of A, and the write of HL after it leaves what it stored. -/
theorem storeAccumulator : Obligations.StoreAccumulator := by
  intro i s label a hl h hm
  refine ⟨_, h.exec_eq, ?_, ?_⟩
  · exact (State.memWrite_byte hm label a s.cpu.a).congr rfl rfl rfl rfl rfl rfl rfl rfl
  · rw [State.setHl_cpu, State.storeA, State.memWrite_byte_cpu]

end Sys2Proof.Machine
end

section
/-! PROOFS. The statements of spec/42_load16_stack.md, with the forms of spec/44_alu16.md that do the same: the writes of
a 16-bit register (R320, R322, R390, R391), the store of SP (R321), PUSH and POP (R324 to R326), and SP plus a
displacement (R323, R393). -/

namespace Sys2Proof.Machine

/-! ### 16-bit registers -/

/-- A write of a 16-bit register leaves memory as the core reads it. -/
theorem State.writeR16_readsSame (s : State) (rr : R16) (v : Word) : ReadsSame s (s.writeR16 rr v) := by
  cases rr <;> exact ReadsSame.of_cpu rfl

/-- Each of these instructions is one write of the register (spec/42_load16_stack.md R320, R322; spec/44_alu16.md R390,
R391). -/
theorem SetsR16.exec_eq {i : Instr} {s : State} {rr : R16} {v : Word} (h : SetsR16 i s rr v) :
    exec i s = .next (s.writeR16 rr v) := by
  obtain hform | ⟨hform, rfl, rfl⟩ | ⟨hform, rfl⟩ | ⟨hform, rfl⟩ := h <;> rw [exec_eq_familyMeaning, hform] <;> rfl

/-- Settles O34: the instruction is one write of a 16-bit register. -/
theorem setPair : Obligations.SetPair :=
  fun _ s rr v h => ⟨_, h.exec_eq, s.writeR16_writes rr v, s.writeR16_readsSame rr v⟩

/-! ### The store of SP -/

/-- Settles O35: the instruction is one `MemWrite` of the two bytes of SP. -/
theorem storeSp : Obligations.StoreSp := by
  intro i s a16 hform hm
  have hexec : exec i s = .next (s.memWrite .ma16 a16 (wordBytes s.cpu.sp)) := by
    rw [exec_eq_familyMeaning, hform, familyMeaning]
  exact ⟨_, hexec, State.memWrite_word hm _ _ _, s.memWrite_word_cpu _ _ _⟩

/-! ### PUSH and POP -/

/-- Settles O36: the instruction is one `Push16` of the pair as it reads. -/
theorem pushStoresPair : Obligations.PushStoresPair := by
  intro i s rr v hform hm hv
  have hpair : v = s.readStk rr := by
    rw [hv]
    cases rr <;> rfl
  have hexec : exec i s = .next (s.push16 .push v) := by
    rw [exec_eq_familyMeaning, hform, familyMeaning, State.pushR16, hpair]
  exact ⟨_, hexec, State.push16_stored hm _ v, s.push16_cpu _ v⟩

/-- POP AF takes A from the byte above SP and F from the byte at SP, its low bits 0 (spec/42_load16_stack.md R326). -/
theorem State.dropTop_writeStk_af (s : State) :
    s.dropTop.writeStk .af s.stackTop =
      { s with
        cpu :=
          { s.cpu with
            a := s.memRead (s.cpu.sp + 1#16), f := s.memRead s.cpu.sp &&& 0xF0#8, sp := s.cpu.sp + 2#16 } } := by
  rw [State.writeStk, State.stackTop, Word.hi_ofBytes, Word.lo_ofBytes]
  rfl

/-- Settles O37: POP writes the pair and SP; the bytes of AF are those of the word popped. -/
theorem popLoadsPair : Obligations.PopLoadsPair := by
  rintro i s _ rr hform rfl
  rw [exec_eq_familyMeaning, hform, familyMeaning, State.popR16]
  cases rr
  case af => exact ⟨congrArg Host.Outcome.next s.dropTop_writeStk_af, ReadsSame.of_cpu rfl⟩
  case bc | de | hl => exact ⟨rfl, ReadsSame.of_cpu rfl⟩

/-! ### SP plus a displacement -/

/-- `SetFlags` writes F and nothing else (spec/40_engine.md R251). -/
theorem State.setFlags_eq (s : State) (z n h c : Option Bool) :
    s.setFlags z n h c =
      { s with
        cpu :=
          { s.cpu with f := flagByte (z.getD s.flagZ) (n.getD s.flagN) (h.getD s.flagH) (c.getD s.flagC) } } := by
  rw [State.setFlags, State.setF, flagByte_masked]

/-- Settles O38: both forms write the sum (`add_displacement`) and the flags of the low byte (`add8_low`). -/
theorem spPlusDisplacement : Obligations.SpPlusDisplacement := by
  rintro i s _ e8 _ _ rfl rfl h
  rw [← add_displacement, ← (add8_low _ _).1, ← (add8_low _ _).2] at h
  obtain ⟨hform, rfl⟩ | ⟨hform, rfl⟩ := h
  all_goals
    rw [exec_eq_familyMeaning, hform]
    exact ⟨congrArg Host.Outcome.next (State.setFlags_eq _ _ _ _ _), ReadsSame.of_cpu rfl⟩

end Sys2Proof.Machine
end

section
/-! PROOFS. The statements of spec/43_alu8.md: addition and subtraction (R350 to R353, R357), the bitwise operations
(R354 to R356), INC and DEC (R358 to R361), and what DAA (spec/45_acc_misc.md R414) makes of a sum and a difference. -/

namespace Sys2Proof.Machine

/-! ### The forms of an ALU operation -/

/-- Every form of a row is the operation on A and the row's operand. -/
theorem HasAluOperand.exec_eq {i : Instr} {op : AluOp} {s : State} {v : Byte} (h : HasAluOperand i op s v) :
    exec i s = .next (s.aluOp op v) := by
  obtain ⟨r, hform, rfl⟩ | hform := h <;> rw [exec_eq_familyMeaning, hform] <;> rfl

/-- The two writes of an addition or a subtraction, as one. -/
theorem State.setSum_eq (s : State) (n : Bool) (r : Sum8) :
    s.setSum n r =
      { s with cpu := { s.cpu with a := r.res, f := flagByte (decide (r.res = 0#8)) n r.half r.cout } } :=
  State.setFlags_eq _ _ _ _ _

/-- The two writes of a bitwise operation, as one. -/
theorem State.setLogic_eq (s : State) (h : Bool) (v : Byte) :
    s.setLogic h v = { s with cpu := { s.cpu with a := v, f := flagByte (decide (v = 0#8)) false h false } } :=
  State.setFlags_eq _ _ _ _ _

/-! ### ADD and ADC -/

/-- A and the flags of a sum, in numbers. -/
theorem State.setSum_add8 (s : State) (v : Byte) (cin : Bool) :
    s.setSum false (add8 s.cpu.a v cin) =
      { s with
        cpu :=
          { s.cpu with
            a := BitVec.ofNat 8 (s.cpu.a.toNat + v.toNat + cin.toNat)
            f := flagByte (decide ((s.cpu.a.toNat + v.toNat + cin.toNat) % 256 = 0)) false
              (decide (s.cpu.a.toNat % 16 + v.toNat % 16 + cin.toNat > 15))
              (decide (s.cpu.a.toNat + v.toNat + cin.toNat > 255)) } } := by
  rw [State.setSum_eq, add8_zero, add8_half]
  rfl

/-- Settles O40: both operations write a sum (`State.setSum_add8`), ADD the one without a carry-in. -/
theorem addAndAdc : Obligations.AddAndAdc := by
  rintro i s _ v cin h rfl
  obtain ⟨hop, rfl⟩ | ⟨hop, rfl⟩ := h <;> refine ⟨hop.exec_eq.trans ?_, ReadsSame.of_cpu rfl⟩
  · exact congrArg Host.Outcome.next (s.setSum_add8 v false)
  · exact congrArg Host.Outcome.next (s.setSum_add8 v s.flagC)

/-! ### SUB, SBC and CP -/

/-- The flags of a difference, in numbers (spec/40_engine.md R253): Z of it, N set, the borrows from bit 4 and out of
bit 7. `flagByte_sub8` ties them to the model's `sub8`. -/
def differenceFlags (a v : Byte) (bin : Nat) : Byte :=
  flagByte (decide (BitVec.ofInt 8 (a.toNat - v.toNat - bin) = 0#8)) true (decide (a.toNat % 16 < v.toNat % 16 + bin))
    (decide (a.toNat < v.toNat + bin))

theorem flagByte_sub8 (a v : Byte) (bin : Bool) :
    flagByte (decide ((sub8 a v bin).res = 0#8)) true (sub8 a v bin).half (sub8 a v bin).cout =
      differenceFlags a v bin.toNat := by
  rw [sub8_half, sub8_cout]
  rfl

/-- A and the flags of a difference, in numbers. -/
theorem State.setSum_sub8 (s : State) (v : Byte) (bin : Bool) :
    s.setSum true (sub8 s.cpu.a v bin) =
      { s with
        cpu :=
          { s.cpu with
            a := BitVec.ofInt 8 (s.cpu.a.toNat - v.toNat - bin.toNat)
            f := differenceFlags s.cpu.a v bin.toNat } } := by
  rw [State.setSum_eq, flagByte_sub8]
  rfl

/-- CP writes the flags of SUB and leaves A (spec/43_alu8.md R357). -/
theorem State.aluOp_cp (s : State) (v : Byte) :
    s.aluOp .cp v = { s with cpu := { s.cpu with f := differenceFlags s.cpu.a v 0 } } := by
  rw [← Bool.toNat_false, ← flagByte_sub8]
  exact State.setFlags_eq _ _ _ _ _

/-- Settles O41: SUB and SBC write a difference (`State.setSum_sub8`), CP its flags only. -/
theorem subSbcAndCp : Obligations.SubSbcAndCp := by
  rintro i s t v _ bin h rfl ht
  suffices hexec : exec i s =
      .next { s with cpu := { s.cpu with a := t.cpu.a, f := differenceFlags s.cpu.a v bin } } by
    rw [ht]
    exact ⟨hexec, ReadsSame.of_cpu rfl⟩
  obtain ⟨hop, rfl, ha⟩ | ⟨hop, rfl, ha⟩ | ⟨hop, rfl, ha⟩ := h <;> rw [ha, hop.exec_eq]
  · exact congrArg Host.Outcome.next (s.setSum_sub8 v false)
  · exact congrArg Host.Outcome.next (s.setSum_sub8 v s.flagC)
  · exact congrArg Host.Outcome.next (s.aluOp_cp v)

/-! ### AND, XOR and OR -/

/-- Settles O42: each operation writes its bitwise result, whose bits the library's lemmas give. -/
theorem andXorOr : Obligations.AndXorOr := by
  intro i s v op bit h hop hi
  obtain ⟨w, haluOp, hbits⟩ : ∃ w : Byte, s.aluOp op v = s.setLogic h w ∧
      ∀ k < 8, w.getLsbD k = bit (s.cpu.a.getLsbD k) (v.getLsbD k) := by
    obtain ⟨rfl, rfl, rfl⟩ | ⟨rfl, rfl, rfl⟩ | ⟨rfl, rfl, rfl⟩ := hop
    · exact ⟨_, rfl, fun _ _ => BitVec.getLsbD_and⟩
    · exact ⟨_, rfl, fun _ _ => BitVec.getLsbD_xor⟩
    · exact ⟨_, rfl, fun _ _ => BitVec.getLsbD_or⟩
  exact ⟨s.setLogic h w, by rw [hi.exec_eq, haluOp], hbits, s.setLogic_eq h w, ReadsSame.of_same rfl rfl rfl⟩

/-! ### INC and DEC -/

/-- `SetFlags` leaves memory as the core reads it. -/
theorem ReadsSame.setFlags {s t : State} (hst : ReadsSame s t) (z n h c : Option Bool) :
    ReadsSame s (t.setFlags z n h c) := hst

/-- INC of a register or of (HL), in numbers (spec/43_alu8.md R358, R359). -/
theorem exec_inc {i : Instr} {r : R8} (hform : i.form = .inc r) (s : State) :
    exec i s =
      .next ((s.writeR8 r (s.readR8 r + 1#8)).setFlags (some (decide (s.readR8 r = 0xFF#8))) (some false)
        (some (decide ((s.readR8 r).toNat % 16 = 15))) none) := by
  obtain ⟨hres, hzero, hhalf⟩ := add8_one (s.readR8 r)
  rw [exec_eq_familyMeaning, hform, familyMeaning, State.incR8, hzero, hhalf, hres]

/-- DEC of a register or of (HL), in numbers (spec/43_alu8.md R360, R361). -/
theorem exec_dec {i : Instr} {r : R8} (hform : i.form = .dec r) (s : State) :
    exec i s =
      .next ((s.writeR8 r (s.readR8 r - 1#8)).setFlags (some (decide (s.readR8 r = 0x01#8))) (some true)
        (some (decide ((s.readR8 r).toNat % 16 = 0))) none) := by
  obtain ⟨hres, hzero, hhalf⟩ := sub8_one (s.readR8 r)
  rw [exec_eq_familyMeaning, hform, familyMeaning, State.decR8, hzero, hhalf, hres]

/-- Settles O43: the instruction is one write of a register that is not (HL), then `SetFlags` that leaves C. -/
theorem incDecRegister : Obligations.IncDecRegister := fun _ s _ hr =>
  ⟨fun hform => ⟨_, exec_inc hform s, (s.writeR8_readsSame hr _).setFlags _ _ _ _,
      s.writeR8_setFlags_writes hr _ _ _ _ _⟩,
    fun hform => ⟨_, exec_dec hform s, (s.writeR8_readsSame hr _).setFlags _ _ _ _,
      s.writeR8_setFlags_writes hr _ _ _ _ _⟩⟩

/-- A store at HL, then `SetFlags`: the store is as without it, and of the CPU state F and IE change. -/
theorem State.writeR8_mHL_setFlags {s : State} (hm : Memory.wf s.bus.mem) (v : Byte) (z n h c : Option Bool) :
    Stored s ((s.writeR8 .mHL v).setFlags z n h c) .mHL s.cpu.hl [v] ∧
    ((s.writeR8 .mHL v).setFlags z n h c).cpu =
      { s.cpu with
        f := flagByte (z.getD s.flagZ) (n.getD s.flagN) (h.getD s.flagH) (c.getD s.flagC)
        ie := s.ieAfterByte s.cpu.hl v } := by
  constructor
  · exact (State.memWrite_byte hm .mHL s.cpu.hl v).congr (by simp [State.writeR8]) rfl rfl rfl rfl rfl rfl rfl
  · simp [State.writeR8, State.flagZ, State.flagN, State.flagH, State.flagC]

/-- Settles O44: the instruction is one store at HL, then `SetFlags` that leaves C. -/
theorem incDecAtHL : Obligations.IncDecAtHL := by
  rintro i s _ hm rfl
  exact ⟨fun hform => ⟨_, exec_inc hform s, State.writeR8_mHL_setFlags hm _ _ _ _ _⟩,
    fun hform => ⟨_, exec_dec hform s, State.writeR8_mHL_setFlags hm _ _ _ _ _⟩⟩

/-! ### DAA after ADD and SUB -/

/-- The correction of DAA, in numbers (spec/45_acc_misc.md R414). -/
theorem daaAdjust_toNat (a : Byte) (n h c : Bool) :
    (daaAdjust a n h c).toNat =
      (if h || (!n && decide (a.toNat % 16 > 9)) then 0x06 else 0) +
        (if c || (!n && decide (a.toNat > 0x99)) then 0x60 else 0) := by
  rw [daaAdjust, lowNibble_eq]
  split_ifs <;> rfl

/-- DAA sets C exactly when the correction 0x60 applies. -/
theorem daaCarry_eq (a : Byte) (n c : Bool) : daaCarry a n c = (c || (!n && decide (a.toNat > 0x99))) := by
  cases c <;> simp [daaCarry]

/-- The two writes of DAA, as one (spec/45_acc_misc.md R414). -/
theorem exec_daa {j : Instr} (hform : j.form = .daa) (s : State) :
    exec j s =
      .next
        { s with
          cpu :=
            { s.cpu with
              a := daaResult s.cpu.a s.flagN s.flagH s.flagC
              f := flagByte (decide (daaResult s.cpu.a s.flagN s.flagH s.flagC = 0#8)) s.flagN false
                (daaCarry s.cpu.a s.flagN s.flagC) } } := by
  rw [exec_eq_familyMeaning, hform, familyMeaning, execDaa, State.setFlags_eq]
  rfl

/-- What DAA leaves in A and C after a sum or a difference. -/
theorem exec_daa_setSum {j : Instr} (hform : j.form = .daa) (s : State) (n : Bool) (r : Sum8) :
    ∃ u, exec j (s.setSum n r) = .next u ∧ u.cpu.a = daaResult r.res n r.half r.cout ∧
      u.flagC = daaCarry r.res n r.cout := by
  rw [exec_daa hform, State.setSum_eq]
  exact ⟨_, rfl, by simp [State.flagN, State.flagH, State.flagC], by simp [State.flagN, State.flagC]⟩

/-- A byte of the last two decimal digits of a number is BCD and stands for that number modulo 100. -/
theorem isBcd_of_digits {w : Byte} {n : Nat} (h : w.toNat = n / 10 % 10 * 16 + n % 10) :
    isBcd w ∧ bcdValue w = n % 100 := by
  unfold isBcd bcdValue
  omega

/-- The corrections make of a sum in base 16 the digits of the sum in base 10: `x` and `y` are the sums of the high and
of the low digits of two numbers. -/
theorem decimalSum_corrected {x y : Nat} (hx : x ≤ 18) (hy : y ≤ 18) :
    ((16 * x + y) % 256 + ((if y > 9 then 0x06 else 0) + (if 10 * x + y > 99 then 0x60 else 0))) % 256 =
      (10 * x + y) / 10 % 10 * 16 + (10 * x + y) % 10 := by
  split_ifs <;> omega

/-- The corrections make of a difference in base 16 the digits of the difference in base 10: `x` is the difference of
the high digits of two numbers plus 9, `y` that of the low digits plus 10, so below 10 the low digit borrows. -/
theorem decimalDifference_corrected {x y : Nat} (hx : x ≤ 18) (hy : y ≤ 19) :
    (256 - ((if y < 10 then 0x06 else 0) + (if 10 * x + y < 100 then 0x60 else 0)) + (16 * x + y + 102) % 256) % 256 =
      (10 * x + y) / 10 % 10 * 16 + (10 * x + y) % 10 := by
  split_ifs <;> omega

theorem add8_toNat (a v : Byte) : (add8 a v false).res.toNat = (a.toNat + v.toNat) % 256 := by
  simp [add8]

theorem sub8_toNat (a v : Byte) : (sub8 a v false).res.toNat = (a.toNat + 256 - v.toNat) % 256 := by
  simp only [sub8, BitVec.toNat_ofInt, Bool.toNat_false]
  omega

section Decimal

variable {a v : Byte} (ha : isBcd a) (hv : isBcd v)
include ha hv

/-- After a sum of BCD bytes the correction 0x06 is for a decimal carry out of the low digit. -/
theorem add8_lowCorrection :
    ((add8 a v false).half || decide ((add8 a v false).res.toNat % 16 > 9)) =
      decide (a.toNat % 16 + v.toNat % 16 > 9) := by
  rw [add8_half, add8_toNat, ← Bool.decide_or, decide_eq_decide, Bool.toNat_false]
  unfold isBcd at ha hv
  omega

/-- After a sum of BCD bytes the correction 0x60 is for a decimal carry. -/
theorem add8_highCorrection :
    ((add8 a v false).cout || decide ((add8 a v false).res.toNat > 0x99)) = decide (bcdValue a + bcdValue v > 99) := by
  rw [add8_toNat, add8, ← Bool.decide_or, decide_eq_decide, Bool.toNat_false]
  unfold isBcd at ha hv
  unfold bcdValue
  omega

/-- C of a difference of BCD bytes is the decimal borrow. -/
theorem sub8_cout_bcd : (sub8 a v false).cout = decide (bcdValue a < bcdValue v) := by
  rw [sub8_cout, decide_eq_decide, Bool.toNat_false]
  unfold isBcd at ha hv
  unfold bcdValue
  omega

/-- A after DAA on a sum: the two digits of the decimal sum. -/
theorem daaResult_add8 :
    (daaResult (add8 a v false).res false (add8 a v false).half (add8 a v false).cout).toNat =
      (bcdValue a + bcdValue v) / 10 % 10 * 16 + (bcdValue a + bcdValue v) % 10 := by
  rw [daaResult, if_neg Bool.false_ne_true, BitVec.toNat_add, daaAdjust_toNat, Bool.not_false, Bool.true_and,
    Bool.true_and, add8_lowCorrection ha hv, add8_highCorrection ha hv, add8_toNat]
  obtain ⟨x, hx⟩ : ∃ x, a.toNat / 16 + v.toNat / 16 = x := ⟨_, rfl⟩
  obtain ⟨y, hy⟩ : ∃ y, a.toNat % 16 + v.toNat % 16 = y := ⟨_, rfl⟩
  unfold isBcd at ha hv
  have hbyte : a.toNat + v.toNat = 16 * x + y := by omega
  have hvalue : bcdValue a + bcdValue v = 10 * x + y := by
    unfold bcdValue
    omega
  rw [hbyte, hvalue, hy]
  simpa only [decide_eq_true_eq] using decimalSum_corrected (by omega : x ≤ 18) (by omega : y ≤ 18)

/-- A after DAA on a difference: the two digits of the decimal difference. -/
theorem daaResult_sub8 :
    (daaResult (sub8 a v false).res true (sub8 a v false).half (sub8 a v false).cout).toNat =
      (bcdValue a + 100 - bcdValue v) / 10 % 10 * 16 + (bcdValue a + 100 - bcdValue v) % 10 := by
  rw [daaResult, if_pos rfl, BitVec.toNat_sub, daaAdjust_toNat, Bool.not_true, Bool.false_and, Bool.false_and,
    Bool.or_false, Bool.or_false, sub8_half, sub8_cout_bcd ha hv, sub8_toNat, Bool.toNat_false]
  obtain ⟨x, hx⟩ : ∃ x, a.toNat / 16 + 9 - v.toNat / 16 = x := ⟨_, rfl⟩
  obtain ⟨y, hy⟩ : ∃ y, a.toNat % 16 + 10 - v.toNat % 16 = y := ⟨_, rfl⟩
  unfold isBcd at ha hv
  have hbyte : a.toNat + 256 - v.toNat = 16 * x + y + 102 := by omega
  have hvalue : bcdValue a + 100 - bcdValue v = 10 * x + y := by
    unfold bcdValue
    omega
  have hlow : a.toNat % 16 < v.toNat % 16 + 0 ↔ y < 10 := by omega
  have hhigh : bcdValue a < bcdValue v ↔ 10 * x + y < 100 := by omega
  rw [hbyte, hvalue]
  simpa only [decide_eq_true_eq, hlow, hhigh] using
    decimalDifference_corrected (by omega : x ≤ 18) (by omega : y ≤ 19)

theorem daaCarry_add8 :
    daaCarry (add8 a v false).res false (add8 a v false).cout = decide (bcdValue a + bcdValue v > 99) := by
  rw [daaCarry_eq, Bool.not_false, Bool.true_and, add8_highCorrection ha hv]

theorem daaCarry_sub8 :
    daaCarry (sub8 a v false).res true (sub8 a v false).cout = decide (bcdValue a < bcdValue v) := by
  rw [daaCarry_eq, Bool.not_true, Bool.false_and, Bool.or_false, sub8_cout_bcd ha hv]

end Decimal

/-- Settles O47: DAA turns the sum and the difference of two BCD bytes into the digits of the decimal ones. -/
theorem daaMakesBcd : Obligations.DaaMakesBcd := by
  refine fun i j s v hform ha hv => ⟨fun hop => ?_, fun hop => ?_⟩
  · obtain ⟨u, hexec, hres, hcarry⟩ := exec_daa_setSum hform s false (add8 s.cpu.a v false)
    obtain ⟨hbcd, hvalue⟩ := isBcd_of_digits (daaResult_add8 ha hv)
    rw [← hres] at hbcd hvalue
    exact ⟨_, u, hop.exec_eq, hexec, hbcd, hvalue, hcarry.trans (daaCarry_add8 ha hv)⟩
  · obtain ⟨u, hexec, hres, hcarry⟩ := exec_daa_setSum hform s true (sub8 s.cpu.a v false)
    obtain ⟨hbcd, hvalue⟩ := isBcd_of_digits (daaResult_sub8 ha hv)
    rw [← hres] at hbcd hvalue
    exact ⟨_, u, hop.exec_eq, hexec, hbcd, hvalue, hcarry.trans (daaCarry_sub8 ha hv)⟩

end Sys2Proof.Machine
end

section
/-! PROOFS. The statement of spec/44_alu16.md about ADD HL,rr (R392). -/

namespace Sys2Proof.Machine

/-- The carry out of bit 11, in numbers. -/
theorem halfCarry16_eq (a b : Word) : halfCarry16 a b = decide (a.toNat % 4096 + b.toNat % 4096 > 4095) := by
  simp only [halfCarry16, BitVec.extractLsb'_toNat, Nat.shiftRight_zero, Nat.reducePow]

/-- The sum that ADD HL,rr writes, and its flags, in numbers. -/
theorem State.addHlR16_eq (s : State) (rr : R16) :
    s.addHlR16 rr =
      .next
        { s with
          cpu :=
            { s.cpu with
              hl := BitVec.ofNat 16 (s.cpu.hl.toNat + (s.readR16 rr).toNat)
              f := flagByte s.flagZ false
                (decide (s.cpu.hl.toNat % 4096 + (s.readR16 rr).toNat % 4096 > 4095))
                (decide (s.cpu.hl.toNat + (s.readR16 rr).toNat > 65535)) } } := by
  rw [State.addHlR16, halfCarry16_eq, carry16, BitVec.add_def, State.setFlags_eq]
  rfl

/-- Settles O39: each row is the addition of its register as it reads (`State.addHlR16_eq`). -/
theorem addToHL : Obligations.AddToHL := by
  rintro i s _ rr v hform hv rfl
  have hread : v = s.readR16 rr := by
    rw [hv]
    cases rr <;> rfl
  refine ⟨?_, ReadsSame.of_cpu rfl⟩
  rw [exec_eq_familyMeaning, hform, familyMeaning, State.addHlR16_eq, hread]

end Sys2Proof.Machine
end

section
/-! PROOFS. The statements of spec/45_acc_misc.md about one operation on A and the flags: the accumulator rotates (R410
to R413), DAA (R414), CPL (R415), SCF (R416), CCF (R417) and NOP (R418). -/

namespace Sys2Proof.Machine

/-! ### The accumulator rotates -/

/-- The two writes of a rotate of A, as one. -/
theorem State.rotateA_eq (s : State) (op : RotOp) :
    s.rotateA op =
      .next
        { s with
          cpu :=
            { s.cpu with
              a := (rotate op s.cpu.a s.flagC).1
              f := flagByte false false false (rotate op s.cpu.a s.flagC).2 } } :=
  congrArg Host.Outcome.next (State.setFlags_eq _ _ _ _ _)

/-- Settles O45: each row is one rotate of A (`State.rotateA_eq`), whose bits `rotate_rotatesTo` gives. -/
theorem rotateAccumulator : Obligations.RotateAccumulator := by
  intro i s op h
  have hexec : exec i s = s.rotateA op := by
    rw [exec_eq_familyMeaning]
    obtain ⟨hform, rfl⟩ | ⟨hform, rfl⟩ | ⟨hform, rfl⟩ | ⟨hform, rfl⟩ := h <;> rw [hform, familyMeaning]
  exact ⟨_, _, _, hexec.trans (s.rotateA_eq op), rotate_rotatesTo op s.cpu.a s.flagC, rfl, ReadsSame.of_cpu rfl⟩

/-! ### DAA -/

/-- A after DAA, in numbers: the correction is added, or subtracted modulo 2^8. -/
theorem daaResult_eq (a : Byte) (n h c : Bool) :
    daaResult a n h c =
      BitVec.ofNat 8
        (if n then a.toNat + 256 - (daaAdjust a n h c).toNat else a.toNat + (daaAdjust a n h c).toNat) := by
  have hadj : (daaAdjust a n h c).toNat ≤ 256 := (daaAdjust a n h c).isLt.le
  cases n
  case false => exact BitVec.add_def _ _
  case true =>
    calc a - daaAdjust a true h c
      _ = BitVec.ofNat 8 (256 - (daaAdjust a true h c).toNat + a.toNat) := BitVec.sub_def _ _
      _ = BitVec.ofNat 8 (a.toNat + 256 - (daaAdjust a true h c).toNat) := by
        rw [← Nat.sub_add_comm hadj, Nat.add_comm 256]

/-- Settles O46: A and C after DAA (`exec_daa`), in numbers. -/
theorem daaCorrectsByFlags : Obligations.DaaCorrectsByFlags := by
  rintro i s _ _ _ _ _ hform rfl rfl rfl rfl rfl
  rw [exec_daa hform, daaCarry_eq, daaResult_eq, daaAdjust_toNat, Bool.or_self_left]
  exact ⟨rfl, ReadsSame.of_cpu rfl⟩

/-! ### CPL, SCF, CCF and NOP -/

/-- The bits of the complement that CPL makes of A. -/
theorem getLsbD_xor_ones (a : Byte) {k : Nat} (hk : k < 8) : (a ^^^ 0xFF#8).getLsbD k = !a.getLsbD k := by
  have hcompl : a ^^^ 0xFF#8 = ~~~a := BitVec.xor_allOnes
  simp [hcompl, hk]

/-- Settles O48: each row but NOP is one `SetFlags`, which CPL does after the complement of A. -/
theorem cplScfCcfNop : Obligations.CplScfCcfNop := by
  intro i s
  rw [exec_eq_familyMeaning]
  refine ⟨fun hform => ?cpl, fun hform => ?scf, fun hform => ?ccf, fun hform => ?nop⟩ <;> rw [hform]
  case cpl => exact ⟨_, rfl, ReadsSame.of_cpu rfl, fun _ => getLsbD_xor_ones _, State.setFlags_eq _ _ _ _ _⟩
  case scf | ccf => exact ⟨_, rfl, ReadsSame.of_cpu rfl, State.setFlags_eq _ _ _ _ _⟩
  case nop => rfl

end Sys2Proof.Machine
end

section
/-! PROOFS. The statements of spec/46_control.md: the jumps (R440 to R444), the calls and restarts (R445, R446, R450)
and the returns (R447 to R449). -/

namespace Sys2Proof.Machine

/-! ### The jumps -/

/-- A relative jump, in numbers (spec/46_control.md R443). -/
theorem State.jumpRelative_eq (s : State) (e8 : Byte) :
    s.jumpRelative e8 = s.setPc (BitVec.ofInt 16 (s.cpu.pc.toNat + e8.toInt)) := by
  rw [State.jumpRelative, add_displacement]

/-- A conditional jump writes PC if its condition holds, and the report in both cases (spec/46_control.md R441). -/
theorem State.jumpIf_eq (s : State) (cc : Cond) (target : Word) :
    s.jumpIf cc target =
      .next
        { s with
          cpu := { s.cpu with pc := if s.cond cc then target else s.cpu.pc }
          cur := { s.cur with taken := s.cond cc } } := by
  rw [State.jumpIf]
  cases s.cond cc <;> rfl

/-- A conditional relative jump is the conditional jump to its target (spec/46_control.md R444). -/
theorem State.jumpRelativeIf_eq_jumpIf (s : State) (cc : Cond) (e8 : Byte) :
    s.jumpRelativeIf cc e8 = s.jumpIf cc (BitVec.ofInt 16 (s.cpu.pc.toNat + e8.toInt)) := by
  rw [State.jumpRelativeIf, State.jumpRelative_eq, State.jumpIf]

/-- Settles O49: each row is one write of PC, which a conditional one makes under its condition (`State.jumpIf_eq`). -/
theorem jumpsWritePc : Obligations.JumpsWritePc := by
  intro i s
  rw [exec_eq_familyMeaning]
  refine ⟨fun a16 hform => ?jp, fun hform => ?jpHL, fun e8 hform => ?jr, fun cc a16 hform => ?jpCond,
    fun cc e8 hform => ?jrCond, rfl, rfl, rfl, rfl⟩ <;> rw [hform, familyMeaning]
  case jp | jpHL => exact ⟨_, rfl, ReadsSame.of_cpu rfl, rfl⟩
  case jr => exact ⟨_, congrArg Host.Outcome.next (s.jumpRelative_eq e8), ReadsSame.of_cpu rfl, rfl⟩
  case jpCond => exact ⟨_, s.jumpIf_eq cc a16, ReadsSame.of_same rfl rfl rfl, rfl⟩
  case jrCond =>
    rw [State.jumpRelativeIf_eq_jumpIf]
    exact ⟨_, s.jumpIf_eq cc _, ReadsSame.of_same rfl rfl rfl, rfl⟩

/-! ### The calls and the restarts -/

/-- The CPU state after a call: PC at the target, and what the push changes. -/
theorem State.callTo_cpu (s : State) (label : WriteLabel) (target : Word) :
    (s.callTo label target).cpu =
      { s.cpu with
        pc := target, sp := s.cpu.sp - 2#16, ie := s.ieAfterWord (s.cpu.sp - 2#16) s.cpu.pc } := by
  rw [State.callTo, State.setPc_cpu, State.push16_cpu]

/-- A call stores PC below SP, low byte first. -/
theorem State.callTo_stored {s : State} (hm : Memory.wf s.bus.mem) (label : WriteLabel) (target : Word) :
    Stored s (s.callTo label target) label (s.cpu.sp - 2#16) (wordBytes s.cpu.pc) :=
  (State.push16_stored hm label s.cpu.pc).congr rfl rfl rfl rfl rfl rfl rfl rfl

/-- A report that is written after a store may be written before it. -/
theorem Stored.setTaken {s t : State} {label : WriteLabel} {a : Word} {bytes : List Byte}
    (h : Stored s t label a bytes) (v : Bool) : Stored (s.setTaken v) (t.setTaken v) label a bytes where
  logged := by rw [State.setTaken_cur, h.logged]; rfl
  held := h.held
  outside := h.outside
  map := h.map
  rest := h.rest

theorem State.callIf_taken {s : State} {cc : Cond} (h : s.cond cc = true) (a16 : Word) :
    s.callIf cc a16 = .next ((s.callTo .call a16).setTaken true) := by
  rw [State.callIf, h, if_pos rfl]

theorem State.callIf_not_taken {s : State} {cc : Cond} (h : s.cond cc = false) (a16 : Word) :
    s.callIf cc a16 = .next (s.setTaken false) := by
  rw [State.callIf, h, if_neg Bool.false_ne_true]

/-- The target of a restart, in numbers (spec/30_encoding.md R190). -/
theorem restartTarget_eq (n : BitVec 3) : n.zeroExtend 16 * 8#16 = BitVec.ofNat 16 (n.toNat * 8) := by
  revert n
  decide

/-- Settles O50: a call is one `Push16` of PC and a write of PC, to which CALL cc adds its report. -/
theorem callsAndRestarts : Obligations.CallsAndRestarts := by
  intro i s hm
  rw [exec_eq_familyMeaning]
  refine ⟨fun a16 hform => ?call, fun cc a16 hform hcond => ?callTaken, fun cc a16 hform hcond => ?callNotTaken,
    fun n hform => ?rst⟩ <;> rw [hform, familyMeaning]
  case call => exact ⟨_, rfl, State.callTo_stored hm _ _, s.callTo_cpu _ _⟩
  case callTaken =>
    exact ⟨_, State.callIf_taken hcond a16, (State.callTo_stored hm _ _).setTaken true, s.callTo_cpu _ _⟩
  case callNotTaken => exact ⟨_, State.callIf_not_taken hcond a16, ReadsSame.of_same rfl rfl rfl, rfl⟩
  case rst =>
    rw [State.restart, restartTarget_eq]
    exact ⟨_, rfl, State.callTo_stored hm _ _, s.callTo_cpu _ _⟩

/-! ### The returns -/

/-- A return writes PC with the word at SP, and SP (spec/46_control.md R447). -/
theorem State.returnPop_eq (s : State) :
    s.returnPop = { s with cpu := { s.cpu with pc := s.wordAt s.cpu.sp, sp := s.cpu.sp + 2#16 } } := by
  rw [State.returnPop, State.stackTop_eq]
  rfl

theorem State.returnIf_taken {s : State} {cc : Cond} (h : s.cond cc = true) :
    s.returnIf cc = .next (s.returnPop.setTaken true) := by
  rw [State.returnIf, h, if_pos rfl]

theorem State.returnIf_not_taken {s : State} {cc : Cond} (h : s.cond cc = false) :
    s.returnIf cc = .next (s.setTaken false) := by
  rw [State.returnIf, h, if_neg Bool.false_ne_true]

/-- RETI is a return that also writes IME and IME_SCHEDULED (spec/46_control.md R449). -/
theorem State.returnFromInterrupt_eq (s : State) :
    s.returnFromInterrupt = (s.returnPop.setIme true).setImeScheduled false := rfl

/-- Settles O51: each row is one return (`State.returnPop_eq`), to which RET cc adds its report and RETI the writes of
IME and IME_SCHEDULED. -/
theorem returnsPopPc : Obligations.ReturnsPopPc := by
  intro i s
  rw [exec_eq_familyMeaning]
  refine ⟨fun hform => ?ret, fun cc hform hcond => ?retTaken, fun cc hform hcond => ?retNotTaken,
    fun hform => ?reti⟩ <;> rw [hform, familyMeaning]
  case ret =>
    rw [State.returnPop_eq]
    exact ⟨_, rfl, ReadsSame.of_cpu rfl, rfl⟩
  case retTaken =>
    rw [State.returnIf_taken hcond, State.returnPop_eq]
    exact ⟨_, rfl, ReadsSame.of_same rfl rfl rfl, rfl⟩
  case retNotTaken => exact ⟨_, State.returnIf_not_taken hcond, ReadsSame.of_same rfl rfl rfl, rfl⟩
  case reti =>
    rw [State.returnFromInterrupt_eq, State.returnPop_eq]
    exact ⟨_, rfl, ReadsSame.of_cpu rfl, rfl⟩

end Sys2Proof.Machine
end

section
/-! PROOFS. The statements of spec/47_system.md: HALT (R480), STOP (R481), DI and EI (R482, R483), the invalid rows
(R484) and the row PREFIX CB (R485). -/

namespace Sys2Proof.Machine

/-! ### HALT -/

/-- HALT with no enabled interrupt pending halts. -/
theorem execHalt_of_not_pending {s : State} (h : s.pending = 0#5) : execHalt s = .next (s.setHalted true) := by
  rw [execHalt, s.lowestPending_eq_none_iff.2 h]

/-- HALT with an enabled interrupt pending does not halt: IME and HALT_BUG decide. -/
theorem execHalt_of_pending {s : State} (h : s.pending ≠ 0#5) :
    execHalt s =
      if s.cpu.ime then .next s else if s.params.haltBug then .next (s.setHaltBugArmed true) else .next s := by
  obtain ⟨n, hn⟩ := Option.ne_none_iff_exists'.1 (mt s.lowestPending_eq_none_iff.1 h)
  rw [execHalt, hn]

/-- Settles O52: HALT by PENDING, then by IME and HALT_BUG. -/
theorem haltCases : Obligations.HaltCases := by
  intro i s hform
  rw [exec_eq_familyMeaning, hform, familyMeaning]
  refine ⟨fun hp => ?idle, fun hp hime => ?enabled, fun hp hime hbug => ?bug, fun hp hime hbug => ?noBug⟩
  case idle => exact ⟨_, execHalt_of_not_pending hp, ReadsSame.of_cpu rfl, rfl⟩
  case enabled => rw [execHalt_of_pending hp, if_pos hime]
  case bug =>
    have hexec : execHalt s = .next (s.setHaltBugArmed true) := by simp [execHalt_of_pending hp, hime, hbug]
    exact ⟨_, hexec, ReadsSame.of_cpu rfl, rfl⟩
  case noBug => simp [execHalt_of_pending hp, hime, hbug]

/-! ### STOP, DI and EI -/

/-- Settles O53: each row is one or two writes of control bits. -/
theorem stopDiEi : Obligations.StopDiEi := by
  intro i s
  rw [exec_eq_familyMeaning]
  refine ⟨fun _ hform => ?_, fun hform => ?_, fun hform => ?_⟩ <;> rw [hform]
  all_goals exact ⟨_, rfl, ReadsSame.of_cpu rfl, rfl⟩

/-! ### The invalid rows and PREFIX CB -/

/-- Settles O54: an invalid row is `State.raiseUnknownOpcode` of its byte. -/
theorem invalidRowsFault : Obligations.InvalidRowsFault := by
  intro i s op hform
  rw [exec_eq_familyMeaning, hform]
  exact ⟨_, rfl, rfl, rfl, rfl, rfl, rfl⟩

/-- Settles O55: PREFIX CB runs the row of the byte at PC (`familyMeaning_prefixCB`), and a CB row completes. -/
theorem prefixRunsTheCbInstruction : Obligations.PrefixRunsTheCbInstruction := by
  rintro i s _ _ hform rfl rfl
  obtain ⟨-, -, hw⟩ := encode_decodeCB (s.memRead s.cpu.pc)
  obtain ⟨t, ht⟩ := exec_next (isInvalid_of_wellFormed hw) (s.fetch8.2.noteOpcode true (s.memRead s.cpu.pc))
  refine ⟨t, ?_, ht⟩
  rw [exec_eq_familyMeaning, hform, familyMeaning_prefixCB, ← exec_eq_familyMeaning, ht]

end Sys2Proof.Machine
end

section
/-! PROOFS. The statements of spec/48_cb_bitops.md: the rotates, shifts and SWAP (R510 to R517), BIT (R518), RES and SET
(R519, R520), each of a register and of (HL). -/

namespace Sys2Proof.Machine

/-! ### Rotates, shifts and SWAP -/

/-- A rotate, shift or SWAP writes its result back to the operand, then all four flags. -/
theorem exec_rot {i : Instr} {op : RotOp} {r : R8} (hform : i.form = .rot op r) (s : State) :
    exec i s =
      .next ((s.writeR8 r (rotate op (s.readR8 r) s.flagC).1).setFlags
        (some (decide ((rotate op (s.readR8 r) s.flagC).1 = 0#8))) (some false) (some false)
        (some (rotate op (s.readR8 r) s.flagC).2)) := by
  rw [exec_eq_familyMeaning, hform]
  rfl

/-- Settles O56: the instruction is one write of a register that is not (HL), then `SetFlags`; `rotate_rotatesTo` gives
the bits. -/
theorem cbRotateRegister : Obligations.CbRotateRegister := fun _ s op r hform hr =>
  ⟨_, _, _, exec_rot hform s, rotate_rotatesTo op (s.readR8 r) s.flagC, s.writeR8_setFlags_writes hr _ _ _ _ _,
    (s.writeR8_readsSame hr _).setFlags _ _ _ _⟩

/-- Settles O57: the instruction is one store at HL, then `SetFlags`. -/
theorem cbRotateAtHL : Obligations.CbRotateAtHL := fun _ s op hform hm =>
  ⟨_, _, _, exec_rot hform s, rotate_rotatesTo op (s.memRead s.cpu.hl) s.flagC,
    State.writeR8_mHL_setFlags hm _ _ _ _ _⟩

/-! ### BIT -/

/-- Settles O58: the instruction is one `SetFlags` that leaves C. -/
theorem bitTestsOneBit : Obligations.BitTestsOneBit := by
  rintro i s _ b r hform rfl
  rw [exec_eq_familyMeaning, hform, familyMeaning, State.testBit, State.setFlags_eq]
  exact ⟨rfl, ReadsSame.of_cpu rfl⟩

/-! ### RES and SET -/

/-- The only bit of `1 <<< n` is bit `n`. -/
theorem getLsbD_oneBit (n : Nat) {k : Nat} (hk : k < 8) : (1#8 <<< n).getLsbD k = decide (k = n) := by
  rw [← BitVec.twoPow_eq, BitVec.getLsbD_twoPow, ← Bool.decide_and, decide_eq_decide]
  omega

/-- The bits of a byte with bit `n` cleared. -/
theorem getLsbD_clearBit (v : Byte) (n : Nat) {k : Nat} (hk : k < 8) :
    (v &&& ~~~(1#8 <<< n)).getLsbD k = if k = n then false else v.getLsbD k := by
  rw [BitVec.getLsbD_and, BitVec.getLsbD_not, getLsbD_oneBit n hk]
  by_cases h : k = n <;> simp [h, hk]

/-- The bits of a byte with bit `n` set. -/
theorem getLsbD_setBit (v : Byte) (n : Nat) {k : Nat} (hk : k < 8) :
    (v ||| 1#8 <<< n).getLsbD k = if k = n then true else v.getLsbD k := by
  rw [BitVec.getLsbD_or, getLsbD_oneBit n hk]
  by_cases h : k = n <;> simp [h]

/-- RES and SET are one write of the operand with one bit at the given value. -/
theorem exec_writeBit {i : Instr} {b : BitVec 3} {r : R8} {val : Bool}
    (h : (i.form = .res b r ∧ val = false) ∨ (i.form = .set b r ∧ val = true)) (s : State) :
    ∃ res, exec i s = .next (s.writeR8 r res) ∧
      ∀ k < 8, res.getLsbD k = if k = b.toNat then val else (s.readR8 r).getLsbD k := by
  rw [exec_eq_familyMeaning]
  obtain ⟨hform, rfl⟩ | ⟨hform, rfl⟩ := h <;> rw [hform]
  · exact ⟨_, rfl, fun _ => getLsbD_clearBit _ _⟩
  · exact ⟨_, rfl, fun _ => getLsbD_setBit _ _⟩

/-- Settles O59: the instruction is one write of a register that is not (HL). -/
theorem resetSetRegister : Obligations.ResetSetRegister := by
  intro i s b r val hr h
  obtain ⟨res, hexec, hbits⟩ := exec_writeBit h s
  exact ⟨_, res, hexec, hbits, s.writeR8_writes hr res, s.writeR8_readsSame hr res⟩

/-- Settles O60: the instruction is one `MemWrite` of one byte at HL. -/
theorem resetSetAtHL : Obligations.ResetSetAtHL := by
  intro i s b val hm h
  obtain ⟨res, hexec, hbits⟩ := exec_writeBit h s
  exact ⟨_, res, hexec, hbits, State.memWrite_byte hm .mHL s.cpu.hl res, s.memWrite_byte_cpu .mHL s.cpu.hl res⟩

end Sys2Proof.Machine
end

section
/-! PROOFS. The statements of spec/60_exceptions.md: the dispatch step (R560 to R562) and the fault step (R551). -/

namespace Sys2Proof.Machine

/-! ### When a step dispatches -/

/-- A step dispatches the lowest pending-enabled source if IME is 1 and it does not stay stopped: a pending source also
wakes a halted core. -/
theorem step_dispatches {s : State} {n : Fin 5} (hf : s.cpu.fault = none) (hstop : s.beginStep.staysStopped = false)
    (hime : s.cpu.ime = true) (hn : s.beginStep.lowestPending = some n) : step s = .next (s.awake.dispatchStep n) := by
  have hwake : s.beginStep.leaveStop.staysHalted = false := by
    have hpending : s.beginStep.leaveStop.lowestPending = some n := hn
    simp [State.staysHalted, hpending]
  have htarget : s.awake.dispatchTarget = some n := by
    simp [State.dispatchTarget, hime, State.awake_lowestPending, hn]
  obtain ⟨h, -⟩ | ⟨-, h, -⟩ | ⟨-, -, m, hm, hstep⟩ | ⟨-, -, h, -⟩ := step_cases hf
  · simp [hstop] at h
  · simp [hwake] at h
  · rwa [Option.some.inj (htarget.symm.trans hm)]
  · simp [htarget] at h

/-! ### The CPU state and the snapshot of a dispatch -/

/-- The vector of a source, in numbers (spec/60_exceptions.md R555). -/
theorem vector_eq (n : Fin 5) : vector n = 0x0040#16 + BitVec.ofNat 16 (8 * n.val) := by
  revert n
  decide

theorem State.awake_dispatchStep_cpu (s : State) (n : Fin 5) :
    (s.awake.dispatchStep n).cpu =
      { s.cpu with
        pc := 0x0040#16 + BitVec.ofNat 16 (8 * n.val)
        sp := s.cpu.sp - 2#16
        ie := s.ieAfterWord (s.cpu.sp - 2#16) s.cpu.pc
        ime := false
        imeScheduled := false
        halted := false
        stopped := false
        cycles := s.cpu.cycles + (20 + if s.cpu.halted then 4 else 0) } := by
  rw [State.dispatchStep_cpu, vector_eq]
  simp [State.ieAfterWord]

/-- A dispatch writes the two bytes of PC below SP and nothing else. -/
theorem takeInterrupt_writes (s : State) (n : Fin 5) :
    (s.awake.takeInterrupt n).cur.writes = [⟨.int, s.cpu.sp - 2#16, wordBytes s.cpu.pc⟩] := by
  simp [State.takeInterrupt, State.push16, State.memWrite]

theorem State.awake_dispatchStep_snapshot (s : State) (n : Fin 5) :
    (s.awake.dispatchStep n).snapshot = some
      { before := s.cpu
        after := (s.awake.dispatchStep n).cpu
        kind := .interrupt n
        writes := [⟨.int, s.cpu.sp - 2#16, wordBytes s.cpu.pc⟩]
        cycles := 20 + if s.cpu.halted then 4 else 0
        irqAck := 1#5 <<< n.val } := by
  obtain ⟨hack, hextra⟩ := takeInterrupt_latch s n
  rw [State.dispatchStep, State.finish_snapshot, takeInterrupt_writes, hack, hextra, (carried_takeInterrupt s n).before]

/-! ### Memory after a dispatch -/

/-- The acknowledge changes no byte of the bus but IF. -/
theorem Bus.read_acknowledge {b : Bus} {a : Nat} (h : b.storageAt a ≠ .interruptFlag) (ack : BitVec 5) (draw : Nat) :
    (b.acknowledge ack).read draw a = b.read draw a := by
  have hkind : (b.acknowledge ack).kindAt a = b.kindAt a := by simp [Bus.kindAt]
  unfold Bus.storageAt at h
  unfold Bus.read
  rw [hkind, Bus.acknowledge_mem]
  cases hk : b.kindAt a
  case interruptFlag => simp [hk] at h
  all_goals rfl

/-- The end of a step changes no byte but IF. -/
theorem State.memRead_finish {s : State} {a : Word} (h : s.storageAt a ≠ .interruptFlag) (k : StepKind) (n : Nat) :
    (s.finish k n).memRead a = s.memRead a := by
  simp only [State.memRead_def, State.finish_cpu, State.finish_bus, State.finish_draws]
  split
  · rfl
  · rename_i ha
    rw [State.storageAt_def, if_neg ha] at h
    exact Bus.read_acknowledge h _ _

/-- Which storage an address names is said by the bus map. -/
theorem State.storageAt_congr {s t : State} (h : t.bus.regions = s.bus.regions) (a : Word) :
    t.storageAt a = s.storageAt a := by
  simp [State.storageAt_def, Bus.storageAt, Bus.kindAt, h]

theorem State.sharesStorage_congr {s t : State} (h : t.bus.regions = s.bus.regions) (a b : Word) :
    t.sharesStorage a b ↔ s.sharesStorage a b := by
  simp only [State.sharesStorage, State.storageAt_congr h]

theorem State.keeps_congr {s t : State} (h : t.bus.regions = s.bus.regions) (a : Word) : t.keeps a ↔ s.keeps a := by
  simp only [State.keeps, Bus.kindAt, h]

/-- An address that keeps what is stored there is none of IF, which has five bits only. -/
theorem State.storageAt_ne_interruptFlag_of_keeps {s : State} {a : Word} (h : s.keeps a) :
    s.storageAt a ≠ .interruptFlag := by
  rw [State.storageAt_def]
  obtain ha | hram | ⟨back, hecho⟩ := h
  · simp [ha]
  · split <;> simp [Bus.storageAt, hram]
  · split <;> simp [Bus.storageAt, hecho]

/-- Before the acknowledge a dispatch is one `Push16` of PC. -/
theorem stored_interruptEntry {s : State} (hm : Memory.wf s.bus.mem) (n : Fin 5) :
    Stored s ((((s.setIme false).setImeScheduled false).push16 .int s.cpu.pc).setPc (vector n)) .int
      (s.cpu.sp - 2#16) (wordBytes s.cpu.pc) :=
  have h := State.callTo_stored (s := (s.setIme false).setImeScheduled false) hm .int (vector n)
  ⟨h.logged, h.held, h.outside, h.map, h.rest⟩

/-- After a dispatch every byte but IF reads as its push left it. -/
theorem State.memRead_dispatchStep {s : State} {a : Word} (h : s.storageAt a ≠ .interruptFlag) (n : Fin 5) :
    (s.dispatchStep n).memRead a =
      ((((s.setIme false).setImeScheduled false).push16 .int s.cpu.pc).setPc (vector n)).memRead a := by
  have hmap : (s.takeInterrupt n).bus.regions = s.bus.regions := (kept_interruptEntry s n).regions
  exact State.memRead_finish (by rwa [State.storageAt_congr hmap]) _ _

/-- The low byte of a stored word is read back unless the high byte lies there too. -/
theorem Stored.word_low {s t : State} {label : WriteLabel} {a v : Word} (h : Stored s t label a (wordBytes v))
    (hkeep : s.keeps a) (hsep : ¬ s.sharesStorage (a + 1#16) a) : t.memRead a = v.lo := by
  have hlast : ∀ j, 0 < j → j < 2 → ¬ s.sharesStorage (a + BitVec.ofNat 16 j) (a + BitVec.ofNat 16 0) := by
    intro j h0 h2
    obtain rfl : j = 1 := by omega
    simpa using hsep
  simpa [wordBytes] using h.held 0 Nat.two_pos (by simpa using hkeep) hlast

/-- The high byte of a stored word is stored last. -/
theorem Stored.word_high {s t : State} {label : WriteLabel} {a v : Word} (h : Stored s t label a (wordBytes v))
    (hkeep : s.keeps (a + 1#16)) : t.memRead (a + 1#16) = v.hi :=
  h.held 1 Nat.one_lt_two hkeep fun j h1 (h2 : j < 2) => by omega

/-- Memory after a dispatch: the two bytes of PC below SP, each where it is kept, and every byte outside but IF. -/
theorem State.dispatchStep_memory {s : State} (hm : Memory.wf s.bus.mem) (n : Fin 5) :
    (s.keeps (s.cpu.sp - 2#16) → ¬ s.sharesStorage (s.cpu.sp - 1#16) (s.cpu.sp - 2#16) →
      (s.dispatchStep n).memRead (s.cpu.sp - 2#16) = s.cpu.pc.lo) ∧
    (s.keeps (s.cpu.sp - 1#16) → (s.dispatchStep n).memRead (s.cpu.sp - 1#16) = s.cpu.pc.hi) ∧
    (∀ b, s.storageAt b ≠ .interruptFlag → ¬ s.sharesStorage (s.cpu.sp - 2#16) b →
      ¬ s.sharesStorage (s.cpu.sp - 1#16) b → (s.dispatchStep n).memRead b = s.memRead b) := by
  have hst := stored_interruptEntry hm n
  have hnext : s.cpu.sp - 1#16 = s.cpu.sp - 2#16 + 1#16 := by bv_omega
  rw [hnext]
  refine ⟨fun hkeep hsep => ?_, fun hkeep => ?_, fun b hif hlo hhi => ?_⟩
  · rw [State.memRead_dispatchStep (State.storageAt_ne_interruptFlag_of_keeps hkeep)]
    exact hst.word_low hkeep hsep
  · rw [State.memRead_dispatchStep (State.storageAt_ne_interruptFlag_of_keeps hkeep)]
    exact hst.word_high hkeep
  · rw [State.memRead_dispatchStep hif]
    exact hst.word_outside hlo hhi

theorem State.awake_regions (s : State) : s.awake.bus.regions = s.bus.regions := by simp

/-- A wake leaves memory as it was at the start of the step. -/
theorem State.awake_memRead (s : State) (a : Word) : s.awake.memRead a = s.beginStep.memRead a :=
  State.memRead_congr (by simp) (by simp) (by simp) a

/-- Settles O10: the step is `State.dispatchStep` in the awake state, of the source that is pending and the lowest. -/
theorem dispatchStep : Obligations.DispatchStep := by
  intro s n hm hf hstop hime hpending hlowest
  have hgoes : s.beginStep.staysStopped = false := by simpa [State.staysStopped] using hstop
  have hn : s.beginStep.lowestPending = some n := (State.lowestPending_eq_some_iff _ n).2 ⟨hpending, hlowest⟩
  have hmap := s.awake_regions
  obtain ⟨hlow, hhigh, houtside⟩ := State.dispatchStep_memory (s := s.awake) (by simpa using hm) n
  simp only [State.keeps_congr hmap, State.sharesStorage_congr hmap, State.storageAt_congr hmap, State.awake_cpu,
    State.awake_memRead] at hlow hhigh houtside
  exact ⟨_, step_dispatches hf hgoes hime hn, s.awake_dispatchStep_cpu n, s.awake_dispatchStep_snapshot n, hlow, hhigh,
    houtside⟩

/-! ### The fault step -/

/-- The fetched row is invalid exactly if the opcode byte is one of the eleven of spec/30_encoding.md R196. -/
theorem State.fetchedInstr_isInvalid_iff (s : State) :
    s.fetchedInstr.isInvalid = true ↔ s.memRead s.cpu.pc ∈
      [0xD3#8, 0xDB#8, 0xDD#8, 0xE3#8, 0xE4#8, 0xEB#8, 0xEC#8, 0xED#8, 0xF4#8, 0xFC#8, 0xFD#8] := by
  rw [State.fetchedInstr, decodeWindow_isInvalid, decide_eq_true_iff]
  rfl

/-- An invalid row has one byte, so its fetch leaves PC after the opcode. -/
theorem State.ready_pc_of_invalid (s : State) {i : Instr} {op : Byte} (h : i.form = .invalid op) :
    (s.ready i).cpu.pc = s.afterOpcode := by
  rw [State.ready_eq, Instr.length, h]
  exact BitVec.add_zero _

/-- The fault step of an invalid opcode, from the state that fetches it (spec/60_exceptions.md R551). -/
theorem executeStep_invalid {u : State} {op : Byte} (hop : op = u.memRead u.cpu.pc)
    (h : u.fetchedInstr.isInvalid = true) :
    ∃ t, u.executeStep = .fault (.unknownOpcode ⟨false, op, u.cpu.pc⟩ t) ∧
      t.cpu =
        { u.cur.before with
          pc := u.afterOpcode
          haltBugArmed := false
          fault := some ⟨false, op, u.cpu.pc⟩ } ∧
      t.bus = u.bus ∧ t.params = u.params ∧ t.cur.writes = [] ∧ t.snapshot = none := by
  have hform : u.fetchedInstr.form = .invalid op := by
    rw [hop]
    exact decodeWindow_invalid h
  obtain ⟨t, hexec, hcpu, hbus, hparams, hwrites, hsnap⟩ := invalidRowsFault _ (u.ready u.fetchedInstr) _ hform
  have hstep := congrArg (completeStep u.fetchedInstr) hexec
  have haddr : (u.ready u.fetchedInstr).cur.fetchAddr = u.cpu.pc := by rw [State.ready_eq]
  rw [haddr] at hstep hcpu
  rw [u.ready_pc_of_invalid hform] at hcpu
  rw [State.ready_eq] at hcpu hbus hparams
  exact ⟨t, hstep, hcpu, hbus, hparams, hwrites, hsnap⟩

theorem State.awake_afterOpcode (s : State) :
    s.awake.afterOpcode = if s.cpu.haltBugArmed then s.cpu.pc else s.cpu.pc + 1#16 := by
  simp [State.afterOpcode]

/-- Settles O12: the step executes the fetched row, which faults (`executeStep_invalid`) if it is invalid and completes
else. -/
theorem unknownOpcodeStep : Obligations.UnknownOpcodeStep := by
  rintro s _ op hf h1 h2 rfl h3 hop
  have hstep := step_executes hf h1 h2 h3
  have hinvalid := s.awake.fetchedInstr_isInvalid_iff
  change op = s.awake.memRead s.awake.cpu.pc at hop
  rw [← hop] at hinvalid
  refine ⟨fun hmem => ?invalid, fun hmem => ?valid⟩
  case invalid =>
    obtain ⟨t, hexec, hcpu, hbus, hparams, hwrites, hsnap⟩ := executeStep_invalid hop (hinvalid.2 hmem)
    have hpc : s.awake.cpu.pc = s.cpu.pc := by rw [State.awake_cpu]
    rw [hpc] at hexec hcpu
    rw [State.awake_afterOpcode, (carried_awake s).before] at hcpu
    exact ⟨t, hstep.trans hexec, hcpu, hbus.trans s.awake_bus, hparams.trans s.awake_params, hwrites, hsnap,
      step_of_fault (by rw [hcpu])⟩
  case valid =>
    obtain ⟨hi, -⟩ | ⟨-, t, -, ht, -⟩ := executeStep_cases s.awake
    · exact absurd (hinvalid.1 hi) hmem
    · exact ⟨_, hstep.trans ht⟩

end Sys2Proof.Machine
end

section
/-! PROOFS. The statement of spec/70_reset_and_hazards.md about the reset of the host (R600). -/

namespace Sys2Proof.Machine

/-- A reset clears FAULT under both boot profiles. -/
theorem Cpu.afterReset_fault (boot : BootProfile) (draw : Nat) : (Cpu.afterReset boot draw).fault = none := by
  cases boot <;> rfl

/-- Settles O19: the reset replaces the CPU state and brings the latch to rest. -/
theorem hostReset : Obligations.HostReset :=
  fun _ => ⟨_, rfl, rfl, Cpu.afterReset_fault _ _, rfl, rfl, rfl, rfl⟩

end Sys2Proof.Machine
end
